-- ==== Sys2Proof/Word.lean ====
section
/-! DEFINITION. Word.lean: the word types of the CHIP-8 core (00_scope.md R7, R9, R10, R12). -/

namespace Sys2Proof

/-- An 8-bit value: a general register, a timer, a memory byte (R7, R30). -/
abbrev Byte := BitVec 8

/-- A 16-bit value: an opcode, `pc`, `I`, a stack entry (R7). -/
abbrev Word := BitVec 16

/-- The name of one of the sixteen general registers V0..VF (R30). It is a name, not a number
the machine computes with. -/
abbrev Reg := Fin 16

/-- VF, entry 15 of the register array, which is also the flag (R32). -/
abbrev Reg.vf : Reg := 15

/-- The 12-bit address field NNN (R113, R114). -/
abbrev Addr := BitVec 12

/-- A 4-bit field: a class or sub nibble, or the row count N (R10, R113). -/
abbrev Nibble := BitVec 4

end Sys2Proof
end

