-- ==== Sys2Proof/Syntax.lean ====
section
/-! DEFINITION. Syntax.lean: the 33 instructions of the decode table (30_encoding.md R120), one constructor per row of
spec/opcode_table.json, in the table's order. Operands carry their width in their type (R113, R114), so every term of
`Instr` is an instruction some opcode encodes. -/

namespace Sys2Proof

/-- The instruction set (00_scope.md R2): exactly the base set of R120, no extension. -/
inductive Instr where
  /-- 00E0 CLS (R150). -/
  | cls
  /-- 00EE RET (R151). -/
  | ret
  /-- 1NNN JP addr (R152). -/
  | jp (nnn : Addr)
  /-- 2NNN CALL addr (R153). -/
  | call (nnn : Addr)
  /-- 3XNN SE Vx, byte (R154). -/
  | seImm (x : Reg) (nn : Byte)
  /-- 4XNN SNE Vx, byte (R155). -/
  | sneImm (x : Reg) (nn : Byte)
  /-- 5XY0 SE Vx, Vy (R156). -/
  | seReg (x y : Reg)
  /-- 9XY0 SNE Vx, Vy (R157). -/
  | sneReg (x y : Reg)
  /-- 6XNN LD Vx, byte (R180). -/
  | ldImm (x : Reg) (nn : Byte)
  /-- 7XNN ADD Vx, byte (R181). -/
  | addImm (x : Reg) (nn : Byte)
  /-- 8XY0 LD Vx, Vy (R182). -/
  | ldReg (x y : Reg)
  /-- 8XY1 OR Vx, Vy (R183). -/
  | orReg (x y : Reg)
  /-- 8XY2 AND Vx, Vy (R184). -/
  | andReg (x y : Reg)
  /-- 8XY3 XOR Vx, Vy (R185). -/
  | xorReg (x y : Reg)
  /-- 8XY4 ADD Vx, Vy (R186). -/
  | addReg (x y : Reg)
  /-- 8XY5 SUB Vx, Vy (R187). -/
  | subReg (x y : Reg)
  /-- 8XY6 SHR Vx, with its ignored Y field (R188, R122). -/
  | shr (x y : Reg)
  /-- 8XY7 SUBN Vx, Vy (R189). -/
  | subnReg (x y : Reg)
  /-- ANNN LD I, addr (R220). -/
  | ldI (nnn : Addr)
  /-- BNNN JP V0, addr (R222). -/
  | jpV0 (nnn : Addr)
  /-- CXNN RND Vx, byte (R223). -/
  | rnd (x : Reg) (nn : Byte)
  /-- DXYN DRW Vx, Vy, nibble (R240). -/
  | drw (x y : Reg) (n : Nibble)
  /-- EX9E SKP Vx (R261). -/
  | skp (x : Reg)
  /-- EXA1 SKNP Vx (R262). -/
  | sknp (x : Reg)
  /-- FX07 LD Vx, DT (R270). -/
  | ldVxDt (x : Reg)
  /-- FX15 LD DT, Vx (R280). -/
  | ldDtVx (x : Reg)
  /-- FX18 LD ST, Vx (R281). -/
  | ldStVx (x : Reg)
  /-- FX1E ADD I, Vx (R284). -/
  | addI (x : Reg)
  /-- FX29 LD F, Vx (R285). -/
  | ldF (x : Reg)
  /-- FX33 LD B, Vx (R286). -/
  | ldB (x : Reg)
  /-- FX55 LD [I], Vx (R287). -/
  | storeRegs (x : Reg)
  /-- FX65 LD Vx, [I] (R288). -/
  | loadRegs (x : Reg)
  /-- FX0A LD Vx, K (R271). -/
  | ldVxK (x : Reg)
  deriving DecidableEq, Repr

end Sys2Proof
end

