-- ==== Sys2Proof/WellFormed.lean ====
section
/-! DEFINITION. WellFormed.lean: what a well-formed opcode word and a well-formed ROM are.
A term of `Instr` needs no check of its own: its operands carry their bounds in their types. The checks stand where raw
data comes in: an opcode word (it must match a row of the mask table, 30_encoding.md R120, R123) and the byte string of
the ROM loader (at most 3584 bytes, 70_reset_and_hazards.md R352). The decoder of Decode.lean is written from the
formats of R112 and R113, not from this table; that the two agree is a statement. -/

namespace Sys2Proof

/-- One row of the mask table of R120: an opcode `op` is the row's when `op & mask = value`. -/
structure Row where
  mask : Word
  value : Word
  deriving DecidableEq, Repr

/-- The row's test (R120). -/
def Row.fits (r : Row) (op : Word) : Bool := (op &&& r.mask) == r.value

/-- Rows 1 to 8 of R120 (flow control). -/
def flowRows : List Row :=
  [⟨0xFFFF, 0x00E0⟩, ⟨0xFFFF, 0x00EE⟩, ⟨0xF000, 0x1000⟩, ⟨0xF000, 0x2000⟩,
   ⟨0xF000, 0x3000⟩, ⟨0xF000, 0x4000⟩, ⟨0xF00F, 0x5000⟩, ⟨0xF00F, 0x9000⟩]

/-- Rows 9 to 18 of R120 (load, add and ALU). -/
def aluRows : List Row :=
  [⟨0xF000, 0x6000⟩, ⟨0xF000, 0x7000⟩, ⟨0xF00F, 0x8000⟩, ⟨0xF00F, 0x8001⟩, ⟨0xF00F, 0x8002⟩,
   ⟨0xF00F, 0x8003⟩, ⟨0xF00F, 0x8004⟩, ⟨0xF00F, 0x8005⟩, ⟨0xF00F, 0x8006⟩, ⟨0xF00F, 0x8007⟩]

/-- Rows 19 to 24 of R120 (index, jump with offset, random, draw, keypad). -/
def indexRows : List Row :=
  [⟨0xF000, 0xA000⟩, ⟨0xF000, 0xB000⟩, ⟨0xF000, 0xC000⟩, ⟨0xF000, 0xD000⟩,
   ⟨0xF0FF, 0xE09E⟩, ⟨0xF0FF, 0xE0A1⟩]

/-- Rows 25 to 33 of R120 (the FX family). -/
def miscRows : List Row :=
  [⟨0xF0FF, 0xF007⟩, ⟨0xF0FF, 0xF015⟩, ⟨0xF0FF, 0xF018⟩, ⟨0xF0FF, 0xF01E⟩, ⟨0xF0FF, 0xF029⟩,
   ⟨0xF0FF, 0xF033⟩, ⟨0xF0FF, 0xF055⟩, ⟨0xF0FF, 0xF065⟩, ⟨0xF0FF, 0xF00A⟩]

/-- The mask table of R120, in its order. -/
def maskTable : List Row := flowRows ++ aluRows ++ indexRows ++ miscRows

/-- The place of an instruction's row in the table of R120, counted from 0. -/
def Instr.rowIndex : Instr → Nat
  | .cls => 0
  | .ret => 1
  | .jp _ => 2
  | .call _ => 3
  | .seImm _ _ => 4
  | .sneImm _ _ => 5
  | .seReg _ _ => 6
  | .sneReg _ _ => 7
  | .ldImm _ _ => 8
  | .addImm _ _ => 9
  | .ldReg _ _ => 10
  | .orReg _ _ => 11
  | .andReg _ _ => 12
  | .xorReg _ _ => 13
  | .addReg _ _ => 14
  | .subReg _ _ => 15
  | .shr _ _ => 16
  | .subnReg _ _ => 17
  | .ldI _ => 18
  | .jpV0 _ => 19
  | .rnd _ _ => 20
  | .drw _ _ _ => 21
  | .skp _ => 22
  | .sknp _ => 23
  | .ldVxDt _ => 24
  | .ldDtVx _ => 25
  | .ldStVx _ => 26
  | .addI _ => 27
  | .ldF _ => 28
  | .ldB _ => 29
  | .storeRegs _ => 30
  | .loadRegs _ => 31
  | .ldVxK _ => 32

/-- An opcode word is well formed when it matches a row of the table; every other word is unmatched (R123). -/
def wellFormedWord (op : Word) : Bool := maskTable.any fun r => r.fits op

/-- The longest ROM the loader may present: 4096 - 0x200 bytes (R7, R352). -/
def romMax : Nat := 3584

/-- A ROM is well formed when it fits (R352); a longer one is a load error. -/
def wellFormedRom (rom : List Byte) : Bool := rom.length ≤ romMax

end Sys2Proof
end

