-- ==== Sys2Proof/Decode.lean ====
section
/-! DEFINITION. Decode.lean: the instruction decoder (30_encoding.md R112-R115, R120, R123), total on every word and every
byte string, and after it the encoder. Every opcode is one 16-bit word of two bytes, the first byte the high one (R110,
R111, 20_memory.md R82). -/

namespace Sys2Proof

/-- The classes of unmatched opcodes of R123, by which the decoder names what it rejects. -/
inductive UnmatchedClass where
  /-- 0NNN other than 00E0 and 00EE. -/
  | class0
  /-- 5XYn with n ≠ 0. -/
  | class5
  /-- 8XYn with n in 8..F. -/
  | class8
  /-- 9XYn with n ≠ 0. -/
  | class9
  /-- EXnn with nn not in 9E, A1. -/
  | classE
  /-- FXnn with nn not in 07, 0A, 15, 18, 1E, 29, 33, 55, 65. -/
  | classF
  deriving DecidableEq, Repr

/-- Why bytes do not decode. -/
inductive Reject where
  /-- Fewer than two bytes (R110: every opcode occupies two). -/
  | truncated
  /-- The opcode matches no row (R123); what the machine then does is R124. -/
  | unmatched (c : UnmatchedClass)
  deriving DecidableEq, Repr

/-- The class nibble op[15:12] (R112). -/
def opClass (op : Word) : Nibble := op.extractLsb' 12 4

/-- X = op[11:8], a register name (R113). -/
def opX (op : Word) : Reg := (op.extractLsb' 8 4).toFin

/-- Y = op[7:4], a register name (R113). -/
def opY (op : Word) : Reg := (op.extractLsb' 4 4).toFin

/-- N = op[3:0] (R113). -/
def opN (op : Word) : Nibble := op.extractLsb' 0 4

/-- NN = op[7:0] (R113). -/
def opNN (op : Word) : Byte := op.extractLsb' 0 8

/-- NNN = op[11:0] (R113). -/
def opNNN (op : Word) : Addr := op.extractLsb' 0 12

/-- Class 0: the two whole-word instructions (R112 FIXED). -/
def decode0 (op : Word) : Except Reject Instr :=
  match (opNNN op).toNat with
  | 0x0E0 => .ok .cls
  | 0x0EE => .ok .ret
  | _ => .error (.unmatched .class0)

/-- Class 5: only sub nibble 0. -/
def decode5 (op : Word) : Except Reject Instr :=
  match (opN op).toNat with
  | 0x0 => .ok (.seReg (opX op) (opY op))
  | _ => .error (.unmatched .class5)

/-- Class 8: sub nibbles 0 to 7 (41_alu.md R191; 90_conflicts.md C5). -/
def decode8 (op : Word) : Except Reject Instr :=
  match (opN op).toNat with
  | 0x0 => .ok (.ldReg (opX op) (opY op))
  | 0x1 => .ok (.orReg (opX op) (opY op))
  | 0x2 => .ok (.andReg (opX op) (opY op))
  | 0x3 => .ok (.xorReg (opX op) (opY op))
  | 0x4 => .ok (.addReg (opX op) (opY op))
  | 0x5 => .ok (.subReg (opX op) (opY op))
  | 0x6 => .ok (.shr (opX op) (opY op))
  | 0x7 => .ok (.subnReg (opX op) (opY op))
  | _ => .error (.unmatched .class8)

/-- Class 9: only sub nibble 0. -/
def decode9 (op : Word) : Except Reject Instr :=
  match (opN op).toNat with
  | 0x0 => .ok (.sneReg (opX op) (opY op))
  | _ => .error (.unmatched .class9)

/-- Class E: low bytes 9E and A1. -/
def decodeE (op : Word) : Except Reject Instr :=
  match (opNN op).toNat with
  | 0x9E => .ok (.skp (opX op))
  | 0xA1 => .ok (.sknp (opX op))
  | _ => .error (.unmatched .classE)

/-- Class F: nine low bytes. -/
def decodeF (op : Word) : Except Reject Instr :=
  match (opNN op).toNat with
  | 0x07 => .ok (.ldVxDt (opX op))
  | 0x0A => .ok (.ldVxK (opX op))
  | 0x15 => .ok (.ldDtVx (opX op))
  | 0x18 => .ok (.ldStVx (opX op))
  | 0x1E => .ok (.addI (opX op))
  | 0x29 => .ok (.ldF (opX op))
  | 0x33 => .ok (.ldB (opX op))
  | 0x55 => .ok (.storeRegs (opX op))
  | 0x65 => .ok (.loadRegs (opX op))
  | _ => .error (.unmatched .classF)

/-- The instruction decoder (R120): by the class nibble, then by the sub nibble or low byte. The last arm is class F,
since the class nibble has only sixteen values. -/
def decodeWord (op : Word) : Except Reject Instr :=
  match (opClass op).toNat with
  | 0x0 => decode0 op
  | 0x1 => .ok (.jp (opNNN op))
  | 0x2 => .ok (.call (opNNN op))
  | 0x3 => .ok (.seImm (opX op) (opNN op))
  | 0x4 => .ok (.sneImm (opX op) (opNN op))
  | 0x5 => decode5 op
  | 0x6 => .ok (.ldImm (opX op) (opNN op))
  | 0x7 => .ok (.addImm (opX op) (opNN op))
  | 0x8 => decode8 op
  | 0x9 => decode9 op
  | 0xA => .ok (.ldI (opNNN op))
  | 0xB => .ok (.jpV0 (opNNN op))
  | 0xC => .ok (.rnd (opX op) (opNN op))
  | 0xD => .ok (.drw (opX op) (opY op) (opN op))
  | 0xE => decodeE op
  | _ => decodeF op

/-- The opcode of two bytes, the lower address first: `hi : lo`, big-endian (R111, R82). -/
def joinBytes (hi lo : Byte) : Word := hi ++ lo

/-- The high byte of an opcode, stored at the lower address (R82). -/
def highByte (op : Word) : Byte := op.extractLsb' 8 8

/-- The low byte of an opcode, stored at the next address (R82). -/
def lowByte (op : Word) : Byte := op.extractLsb' 0 8

/-- Decode the instruction at the head of a byte string and give the rest. -/
def decodeBytes : List Byte → Except Reject (Instr × List Byte)
  | hi :: lo :: rest =>
    match decodeWord (joinBytes hi lo) with
    | .ok i => .ok (i, rest)
    | .error e => .error e
  | _ => .error .truncated

/-- The opcode of the first `nbits` bits of `w`, numbered as spec/opcode_table.json numbers them: bit 0 is the least
significant bit of the 16-bit word. -/
def tableWord (nbits w : Nat) : Word := BitVec.ofNat 16 (w % 2 ^ nbits)

/-- The host's question (which instruction does the decoder read from this table word): the word's two bytes as the
hardware stores them, given to the decoder. No row is longer than 16 bits (R110). -/
def decodeTableWord (nbits w : Nat) : Option Instr :=
  if nbits ≤ 16 then
    match decodeBytes [highByte (tableWord nbits w), lowByte (tableWord nbits w)] with
    | .ok (i, _) => some i
    | .error _ => none
  else none

/-- Format NNN (R112): class nibble and 12-bit address. -/
def encNNN (cls : Nibble) (nnn : Addr) : Word := cls ++ nnn

/-- A register name as the nibble of its field (R113). -/
def regNibble (r : Reg) : Nibble := BitVec.ofFin r

/-- Format XNN (R112): class nibble, X and 8-bit constant; format X is the same with a fixed low byte. -/
def encXNN (cls : Nibble) (x : Reg) (nn : Byte) : Word := cls ++ regNibble x ++ nn

/-- Formats XY and XYN (R112): class nibble, X, Y and the low nibble. -/
def encXYN (cls : Nibble) (x y : Reg) (n : Nibble) : Word :=
  cls ++ regNibble x ++ regNibble y ++ n

/-- The opcode of an instruction, from the patterns of R120. -/
def encode : Instr → Word
  | .cls => 0x00E0
  | .ret => 0x00EE
  | .jp nnn => encNNN 0x1 nnn
  | .call nnn => encNNN 0x2 nnn
  | .seImm x nn => encXNN 0x3 x nn
  | .sneImm x nn => encXNN 0x4 x nn
  | .seReg x y => encXYN 0x5 x y 0x0
  | .sneReg x y => encXYN 0x9 x y 0x0
  | .ldImm x nn => encXNN 0x6 x nn
  | .addImm x nn => encXNN 0x7 x nn
  | .ldReg x y => encXYN 0x8 x y 0x0
  | .orReg x y => encXYN 0x8 x y 0x1
  | .andReg x y => encXYN 0x8 x y 0x2
  | .xorReg x y => encXYN 0x8 x y 0x3
  | .addReg x y => encXYN 0x8 x y 0x4
  | .subReg x y => encXYN 0x8 x y 0x5
  | .shr x y => encXYN 0x8 x y 0x6
  | .subnReg x y => encXYN 0x8 x y 0x7
  | .ldI nnn => encNNN 0xA nnn
  | .jpV0 nnn => encNNN 0xB nnn
  | .rnd x nn => encXNN 0xC x nn
  | .drw x y n => encXYN 0xD x y n
  | .skp x => encXNN 0xE x 0x9E
  | .sknp x => encXNN 0xE x 0xA1
  | .ldVxDt x => encXNN 0xF x 0x07
  | .ldDtVx x => encXNN 0xF x 0x15
  | .ldStVx x => encXNN 0xF x 0x18
  | .addI x => encXNN 0xF x 0x1E
  | .ldF x => encXNN 0xF x 0x29
  | .ldB x => encXNN 0xF x 0x33
  | .storeRegs x => encXNN 0xF x 0x55
  | .loadRegs x => encXNN 0xF x 0x65
  | .ldVxK x => encXNN 0xF x 0x0A

/-- The two bytes of an instruction as they lie in memory, the lower address first (R82). -/
def encodeBytes (i : Instr) : List Byte := [highByte (encode i), lowByte (encode i)]

end Sys2Proof
end

