-- ==== Sys2Proof/Config.lean ====
section
/-! DEFINITION. Config.lean: the named parameters the spec leaves open (00_scope.md R8), with the values it takes by
default, and the free random byte. -/

namespace Sys2Proof

/-- VF_ORDER (R8, R35, R190): which write of 8XY4..8XY7 comes last, which matters only when X = F. -/
inductive VfOrder where
  /-- VF keeps the flag (the spec's default). -/
  | flagLast
  /-- VF keeps the arithmetic result. -/
  | resultLast
  deriving DecidableEq, Repr

/-- DECODE_UNMATCHED (R8, R124): what an opcode that matches no row does. -/
inductive DecodeUnmatched where
  /-- It raises DecodeError (the spec's default). -/
  | fatal
  /-- It has no execute effect; pc has advanced and the tick runs. -/
  | nop
  deriving DecidableEq, Repr

/-- The parameters of R8 that are "arguments of the model". They are plain data, held in the state, and no step changes
them, so that a statement about every state holds for every value of them. -/
structure Params where
  /-- VF_ORDER. -/
  vfOrder : VfOrder
  /-- DECODE_UNMATCHED. -/
  decodeUnmatched : DecodeUnmatched
  /-- FONT: the 80 bytes at 0x000-0x04F, glyph g at 5g..5g+4 (R53). -/
  font : Vector Byte 80
  deriving DecidableEq, Repr

/-- Glyphs 0 to 7 of the default FONT (R53). PRESUMED: the spec marks the table "from general knowledge, not in source". -/
def Config.fontLow : List Byte :=
  [0xF0, 0x90, 0x90, 0x90, 0xF0] ++ [0x20, 0x60, 0x20, 0x20, 0x70] ++
  [0xF0, 0x10, 0xF0, 0x80, 0xF0] ++ [0xF0, 0x10, 0xF0, 0x10, 0xF0] ++
  [0x90, 0x90, 0xF0, 0x10, 0x10] ++ [0xF0, 0x80, 0xF0, 0x10, 0xF0] ++
  [0xF0, 0x80, 0xF0, 0x90, 0xF0] ++ [0xF0, 0x10, 0x20, 0x40, 0x40]

/-- Glyphs 8 to F of the default FONT (R53). PRESUMED, as `Config.fontLow`. -/
def Config.fontHigh : List Byte :=
  [0xF0, 0x90, 0xF0, 0x90, 0xF0] ++ [0xF0, 0x90, 0xF0, 0x10, 0xF0] ++
  [0xF0, 0x90, 0xF0, 0x90, 0x90] ++ [0xE0, 0x90, 0xE0, 0x90, 0xE0] ++
  [0xF0, 0x80, 0x80, 0x80, 0xF0] ++ [0xE0, 0x90, 0x90, 0x90, 0xE0] ++
  [0xF0, 0x80, 0xF0, 0x80, 0xF0] ++ [0xF0, 0x80, 0xF0, 0x80, 0x80]

/-- The default FONT (R53). -/
def Config.font : Vector Byte 80 := ⟨(Config.fontLow ++ Config.fontHigh).toArray, rfl⟩

/-- The defaults of R8. -/
def Config.defaults : Params :=
  { vfOrder := .flagLast, decodeUnmatched := .fatal, font := Config.font }

/-- The random input `rnd` of each step (R58, D20): a free value. It has no body, so nothing can be proved about the
byte a given step samples, and a claim holds for every sequence of bytes. `State.rndIndex` counts the samples. -/
opaque Config.rnd : Nat → Byte

end Sys2Proof
end

