-- ==== Sys2Proof/Machine/State.lean ====
section
/-! DEFINITION. Machine/State.lean: the state of the block as plain data (10_state.md), the reasons a step can stop, and the
state right after reset (10_state.md R57, 70_reset_and_hazards.md R350). -/

namespace Sys2Proof.Machine

/-- The kinds of fatal error (60_exceptions.md R310). A fatal error is not a `Fault` of the model: the spec describes its
entry (R320), and the model takes it as a next state. -/
inductive ErrKind where
  /-- No error recorded (R311). -/
  | none
  /-- The opcode matches no row, with DECODE_UNMATCHED = Fatal. -/
  | decodeError
  /-- A call with sp = 16. -/
  | stackOverflow
  /-- A return with sp = 0. -/
  | stackUnderflow
  /-- A memory address above 0xFFF. -/
  | outOfBounds
  /-- A memory write to 0x000-0x04F. -/
  | fontWrite
  /-- A key index above 15. -/
  | keyOutOfRange
  deriving DecidableEq, Repr

/-- The error record `err` (R311, R62). -/
structure ErrRecord where
  kind : ErrKind
  /-- The fetched opcode, 0 when the fetch itself failed. -/
  opcode : Word
  /-- The instruction address A. -/
  addr : Word
  /-- The column "info" of R310, 17 bits. -/
  info : BitVec 17
  deriving DecidableEq, Repr

/-- Memory as a list of (address, byte) pairs with strictly rising addresses, no entry equal to what an unlisted address
reads as (Machine/Memory.lean says what that is and states the form as `Memory.wf`). -/
abbrev Memory := List Host.Cell

/-- The display buffer (10_state.md R48): 32 rows of 64 pixels, bit x of row y being D[y*64 + x], one bit a pixel (R49). -/
abbrev Display := Vector (BitVec 64) 32

/-- The state of the block. The fields up to `loadError` are the spec's; `loadOpen` and `rndIndex` are the model's own
bookkeeping and `params` holds the named parameters of 00_scope.md R8. -/
structure State where
  /-- V0..VF (R30). -/
  v : Vector Byte 16
  /-- The index register I (R40). -/
  i : Word
  /-- The program counter (R36). -/
  pc : Word
  /-- The stack pointer, 0..16 (R42). -/
  sp : Fin 17
  /-- The stack slots S[0]..S[15] (R43). -/
  stack : Vector Word 16
  /-- The delay timer (R46). -/
  dt : Byte
  /-- The sound timer (R47). -/
  st : Byte
  /-- The display buffer D (R48). -/
  display : Display
  /-- The keypad flags K[0]..K[15], true for pressed (R50). -/
  keys : Vector Bool 16
  /-- Memory M (R51). -/
  mem : Memory
  /-- The halt state (R54). -/
  halted : Bool
  /-- The error record (R54, R311). -/
  err : ErrRecord
  /-- The output sound_stop of the last step (R59, R333). -/
  soundStop : Bool
  /-- The output load_error of the last load (R59, R352). -/
  loadError : Bool
  /-- The model's own: the loader may still act (after reset, before the first load and the first step; R352, D26). -/
  loadOpen : Bool
  /-- The model's own: which free random byte (`Config.rnd`) the next step samples (R58). -/
  rndIndex : Nat
  /-- The parameters of 00_scope.md R8; no step changes them. -/
  params : Params
  deriving DecidableEq, Repr

/-- The model's faults: none. Every stop the spec gives a step of its own is a fatal error, whose entry it describes
(60_exceptions.md R320) and which the model takes as a next state with `halted` set. Nobody raises a fault, which is safe. -/
inductive Fault where
  deriving DecidableEq, Repr

/-- Why the model has no move. -/
inductive Refusal where
  /-- Raised by an arm of `exec` whose instruction has no meaning yet: no arm raises it. Safe. -/
  | notModelled (mnemonic : String)
  /-- Raised by `step` when the last load was refused: "no step may follow" (70_reset_and_hazards.md R352). Safe: the spec
  gives no such step. -/
  | stepAfterLoadError
  /-- Raised by `hostStep` on a second load, or a load after the first step, which "has no move in the model" (R352). Safe:
  the spec gives no such load. -/
  | loadOutsideBoot
  deriving DecidableEq, Repr

/-- The error record after reset (R57). -/
def ErrRecord.cleared : ErrRecord := { kind := .none, opcode := 0, addr := 0, info := 0 }

/-- The state after reset (R57, R350) of a block whose parameters are `p`: memory lists nothing, since an unlisted
address reads its reset contents (`p.font` at 0x000-0x04F, 0 above). -/
def State.resetWith (p : Params) : State where
  v := Vector.replicate 16 0
  i := 0
  pc := 0x200
  sp := 0
  stack := Vector.replicate 16 0
  dt := 0
  st := 0
  display := Vector.replicate 32 0
  keys := Vector.replicate 16 false
  mem := []
  halted := false
  err := ErrRecord.cleared
  soundStop := false
  loadError := false
  loadOpen := true
  rndIndex := 0
  params := p

/-- The machine right after reset, with the spec's default parameters (R8, R57). -/
def State.reset : State := State.resetWith Config.defaults

end Sys2Proof.Machine
end

