-- ==== Sys2Proof/Machine/Memory.lean ====
section
/-! DEFINITION. Machine/Memory.lean: the contents of memory (20_memory.md R80, R88) behind the canonical list of
State.lean. The bounds check and the font check are not here but in Ops.lean (`memRead`, `memWrite`). -/

namespace Sys2Proof.Machine

/-- The number of bytes of memory (00_scope.md R7 MEM_SIZE). -/
def memSize : Nat := 4096

/-- The number of bytes of the font (R7 FONT_SIZE). -/
def fontSize : Nat := 80

/-- What an address reads as when nothing is listed for it: its contents after reset (10_state.md R57), the FONT byte at
0x000-0x04F and 0 above. -/
def initialByte (font : Vector Byte 80) (a : Nat) : Byte :=
  if h : a < 80 then font[a] else 0

/-- The byte held at an address. -/
def Memory.get (font : Vector Byte 80) : Memory → Nat → Byte
  | [], a => initialByte font a
  | (b, w) :: m, a => if a = b then w else Memory.get font m a

/-- Memory with no entry for an address. -/
def Memory.erase (a : Nat) (m : Memory) : Memory := m.filter fun c => c.1 != a

/-- Memory with an entry put before the first higher address. -/
def Memory.insert (a : Nat) (w : Byte) : Memory → Memory
  | [] => [(a, w)]
  | (b, u) :: m => if a < b then (a, w) :: (b, u) :: m else (b, u) :: Memory.insert a w m

/-- Memory with the byte `w` at address `a`, in canonical form: writing what the address reads as unlisted removes its
entry. -/
def Memory.put (font : Vector Byte 80) (a : Nat) (w : Byte) (m : Memory) : Memory :=
  if w = initialByte font a then Memory.erase a m else Memory.insert a w (Memory.erase a m)

/-- Memory with a byte string stored from address `a` upwards (R85: ascending order). -/
def Memory.putBytes (font : Vector Byte 80) (a : Nat) : List Byte → Memory → Memory
  | [], m => m
  | w :: ws, m => Memory.putBytes font (a + 1) ws (Memory.put font a w m)

/-- The canonical form: addresses strictly rising, inside memory, and no entry equal to what its address reads as
unlisted. -/
abbrev Memory.wf (font : Vector Byte 80) (m : Memory) : Prop :=
  m.Pairwise (fun c d => c.1 < d.1) ∧ ∀ c ∈ m, c.1 < 4096 ∧ c.2 ≠ initialByte font c.1

end Sys2Proof.Machine
end

