-- ==== Sys2Proof/Machine/Ops.lean ====
section
/-! DEFINITION. Machine/Ops.lean: the named operations over registers, stack, timers, display and memory, the fetch, and
the taking of a fatal error, each once. -/

namespace Sys2Proof.Machine

/-! ### Registers -/

/-- The value of a general register (R30). -/
def State.getV (s : State) (r : Reg) : Byte := s.v[r.val]

/-- Register-file write-back of one register (R31). -/
def State.setV (s : State) (r : Reg) (b : Byte) : State := { s with v := s.v.set r.val b }

/-- Write the index register (R40). -/
def State.setI (s : State) (w : Word) : State := { s with i := w }

/-- Write the program counter; the value is already 16 bits wide (R15, R39). -/
def State.setPc (s : State) (w : Word) : State := { s with pc := w }

/-- Write the delay timer (R46). -/
def State.setDt (s : State) (b : Byte) : State := { s with dt := b }

/-- Write the sound timer (R47). -/
def State.setSt (s : State) (b : Byte) : State := { s with st := b }

/-- Write the display buffer (R48). -/
def State.setDisplay (s : State) (d : Display) : State := { s with display := d }

/-- Write memory. -/
def State.setMem (s : State) (m : Memory) : State := { s with mem := m }

/-- Write the stack pointer and the slots (R42, R43). -/
def State.setStack (s : State) (p : Fin 17) (t : Vector Word 16) : State := { s with sp := p, stack := t }

/-! ### Errors -/

/-- What a `raise` carries (00_scope.md R14, 60_exceptions.md R310): the kind and its info. -/
structure Raise where
  kind : ErrKind
  info : BitVec 17
  deriving DecidableEq, Repr

/-- The numeric code of a kind (R310), the value of the output err_kind (R59). -/
def ErrKind.code : ErrKind → BitVec 3
  | .none => 0
  | .decodeError => 1
  | .stackOverflow => 2
  | .stackUnderflow => 3
  | .outOfBounds => 4
  | .fontWrite => 5
  | .keyOutOfRange => 6

/-- Fatal-error entry (R320), the one place where a fatal error is taken. `s` is the state at the start of the step, so
nothing of the step commits and there is no tick; `op` is the fetched opcode, or 0. The loader's window closes because a
step has been requested (R352). -/
def takeFatal (s : State) (op : Word) (r : Raise) : State :=
  { s with
    halted := true
    err := { kind := r.kind, opcode := op, addr := s.pc, info := r.info }
    soundStop := false
    loadOpen := false }

/-! ### Memory access -/

/-- The byte at an address, without the bounds check: what a claim about memory reads. -/
def State.byteAt (s : State) (a : Nat) : Byte := Memory.get s.params.font s.mem a

/-- The raise of an access above 0xFFF (R13): the info is the address, which fits in 17 bits. -/
def raiseOutOfBounds (a : Nat) : Raise := { kind := .outOfBounds, info := BitVec.ofNat 17 a }

/-- The raise of a write into the font (R13). -/
def raiseFontWrite (a : Nat) : Raise := { kind := .fontWrite, info := BitVec.ofNat 17 a }

/-- MemRead(a, 1) (R13): `a` is an exact natural number, never reduced. -/
def memRead (s : State) (a : Nat) : Except Raise Byte :=
  if 0xFFF < a then .error (raiseOutOfBounds a) else .ok (s.byteAt a)

/-- MemWrite(a, 1, v) (R13). -/
def memWrite (s : State) (a : Nat) (w : Byte) : Except Raise State :=
  if 0xFFF < a then .error (raiseOutOfBounds a)
  else if a ≤ 0x04F then .error (raiseFontWrite a)
  else .ok (s.setMem (Memory.put s.params.font a w s.mem))

/-- MemRead of `n` bytes from `a` upwards (R85); the first failing address is the lowest (R312). -/
def readBlock (s : State) (a : Nat) : Nat → Except Raise (List Byte)
  | 0 => .ok []
  | n + 1 =>
    match memRead s a with
    | .error r => .error r
    | .ok b =>
      match readBlock s (a + 1) n with
      | .error r => .error r
      | .ok bs => .ok (b :: bs)

/-- MemWrite of a byte string from `a` upwards (R85); the first failing address is the lowest (R312). -/
def writeBlock (s : State) (a : Nat) : List Byte → Except Raise State
  | [] => .ok s
  | b :: bs =>
    match memWrite s a b with
    | .error r => .error r
    | .ok t => writeBlock t (a + 1) bs

/-! ### Program counter -/

/-- pc after the fetch: A + 2 (R36, R111). -/
def State.advance (s : State) : State := s.setPc (s.pc + 2)

/-- The state at the start of the step, from the state after the fetch: the fetch changes pc only (R111), by 2. It is also
the stall of FX0A, `pc <- pc - 2` (R271). -/
def State.rewind (s : State) : State := s.setPc (s.pc - 2)

/-- A skip adds exactly 2 to pc when its condition holds (R158). -/
def State.skipIf (s : State) (c : Bool) : State := if c then s.setPc (s.pc + 2) else s

/-! ### Call stack -/

/-- pc as the 17-bit info of a stack error (R44, R310). -/
def pcInfo (s : State) : BitVec 17 := s.pc.setWidth 17

/-- Push (R44). -/
def push (s : State) (w : Word) : Except Raise State :=
  if h : s.sp.val < 16 then
    .ok (s.setStack ⟨s.sp.val + 1, by omega⟩ (s.stack.set s.sp.val w))
  else .error { kind := .stackOverflow, info := pcInfo s }

/-- Pop (R44): the value and the state after it; the slot keeps what it held (R45). -/
def pop (s : State) : Except Raise (Word × State) :=
  if h : s.sp.val = 0 then .error { kind := .stackUnderflow, info := pcInfo s }
  else
    .ok (s.stack[s.sp.val - 1]'(by omega), s.setStack ⟨s.sp.val - 1, by omega⟩ s.stack)

/-! ### Display -/

/-- The pixel at column x, row y, D[y*64 + x]; x is taken modulo 64 and y modulo 32 (R48). -/
def Display.pixel (d : Display) (x y : Nat) : Bool :=
  (d[y % 32]'(Nat.mod_lt y (by decide))).getLsbD (x % 64)

/-- The display with one pixel inverted, at column x mod 64 and row y mod 32 (R240). -/
def Display.flip (d : Display) (x y : Nat) : Display :=
  d.set (y % 32) ((d[y % 32]'(Nat.mod_lt y (by decide))) ^^^ BitVec.twoPow 64 (x % 64)) (Nat.mod_lt y (by decide))

/-- Every pixel 0 (R150). -/
def Display.clear : Display := Vector.replicate 32 0

/-! ### Keypad -/

/-- The lowest index whose flag is set, counting the head as 0 (R271: "ascending"). -/
def lowestPressed : List Bool → Option Nat
  | [] => none
  | true :: _ => some 0
  | false :: ks => (lowestPressed ks).map (· + 1)

/-! ### The end of an instruction and of a step -/

/-- The outcome of an execute phase that may raise (R14): the state it leaves, or the fatal-error entry on the state at
the start of the step. `s` is the state after the fetch. The opcode of the record is the instruction's own (R311). -/
def commit (i : Instr) (s : State) : Except Raise State → Host.Outcome State Fault Refusal
  | .ok t => .next t
  | .error r => .next (takeFatal s.rewind (encode i) r)

/-- Tick (R330): each timer is decremented while non-zero. -/
def tick (s : State) : State :=
  { s with
    dt := if s.dt = 0 then 0 else s.dt - 1
    st := if s.st = 0 then 0 else s.st - 1 }

/-- The end of a step whose sound timer was `st0` at its start (R140): if the execute phase raised, its fatal-error entry
stands as it is (R320); else the tick runs and sound_stop is computed (R333). One random byte has been sampled (R58) and the
loader's window is closed (R352). -/
def endStep (st0 : Byte) (s : State) : State :=
  if s.halted then s
  else
    { tick s with
      soundStop := st0 ≠ 0 && (tick s).st = 0
      rndIndex := s.rndIndex + 1
      loadOpen := false }

/-- The step after the execute phase's outcome. -/
def afterExecute (st0 : Byte) : Host.Outcome State Fault Refusal → Host.Outcome State Fault Refusal
  | .next t => .next (endStep st0 t)
  | .fault f => .fault f
  | .refused r => .refused r

/-- Fetch (R111): the opcode at pc and pc + 1, the addresses exact (R81). -/
def fetch (s : State) : Except Raise Word :=
  match readBlock s s.pc.toNat 2 with
  | .error r => .error r
  | .ok [hi, lo] => .ok (joinBytes hi lo)
  | .ok _ => .ok 0

/-- An unmatched opcode (R124): DecodeError, or no execute effect, by DECODE_UNMATCHED. `s` is the state at the start of
the step. -/
def unmatchedOpcode (s : State) (op : Word) : State :=
  match s.params.decodeUnmatched with
  | .fatal => takeFatal s op { kind := .decodeError, info := 0 }
  | .nop => endStep s.st s.advance

/-! ### Placing an instruction -/

/-- The state with an opcode's two bytes placed at pc and pc + 1, where they lie inside memory: what a loader would have
put there. No check of R13 applies, since no instruction does this. -/
def State.placeWord (s : State) (op : Word) : State :=
  if s.pc.toNat + 1 < memSize then
    s.setMem (Memory.putBytes s.params.font s.pc.toNat [highByte op, lowByte op] s.mem)
  else s

end Sys2Proof.Machine
end

