-- ==== Sys2Proof/Machine/Operands.lean ====
section
/-! DEFINITION. Machine/Operands.lean: every operand form of the instruction set (30_encoding.md R114, R115): register-direct
is `State.getV`; the others are here. -/

namespace Sys2Proof.Machine

/-- NNN zero-extended to 16 bits (R114). -/
def addrOperand (nnn : Addr) : Word := nnn.setWidth 16

/-- A register's value zero-extended to 16 bits, as BNNN, FX1E and FX29 add or multiply it (R222, R284, R285). -/
def regWide (s : State) (r : Reg) : Word := (s.getV r).setWidth 16

/-- The base of an I-relative memory operand, an exact natural number (R40, R81, R115). -/
def indexBase (s : State) : Nat := s.i.toNat

/-- The values V0..VX in ascending order (R287). -/
def regsUpTo (s : State) (x : Reg) : List Byte := s.v.toList.take (x.val + 1)

/-- The flag of the key V[X] names; an index above 15 raises KeyOutOfRange with that index (R260). -/
def keyOperand (s : State) (x : Reg) : Except Raise Bool :=
  if h : (s.getV x).toNat < 16 then .ok s.keys[(s.getV x).toNat]
  else .error { kind := .keyOutOfRange, info := (s.getV x).setWidth 17 }

/-- The step's random input (R58): the free byte of this step. -/
def rndInput (s : State) : Byte := Config.rnd s.rndIndex

/-- V[k], V[k + 1], ... written from a byte list in ascending order (R288, R31). -/
def loadRegsFrom (s : State) (k : Nat) : List Byte → State
  | [] => s
  | b :: bs => if h : k < 16 then loadRegsFrom (s.setV ⟨k, h⟩ b) (k + 1) bs else s

end Sys2Proof.Machine
end

