-- ==== Sys2Proof/Machine/Flags.lean ====
section
/-! DEFINITION. Machine/Flags.lean: the flag-setter (10_state.md R33, R34) and the write-back of a result and a flag
(41_alu.md R190). -/

namespace Sys2Proof.Machine

/-- A flag as the byte stored in VF. -/
def flagByte (c : Bool) : Byte := if c then 1 else 0

/-- 8XY4: 1 when the exact sum exceeds 255 (R34, R186). -/
def carryFlag (a b : Byte) : Bool := 255 < a.toNat + b.toNat

/-- 8XY5 with (a, b) and 8XY7 with (b, a): 1 when there is no borrow (R34, R187, R189). -/
def noBorrowFlag (a b : Byte) : Bool := b.toNat ≤ a.toNat

/-- 8XY6: the bit shifted out, a[0] (R34, R188). -/
def shiftedOutFlag (a : Byte) : Bool := a.getLsbD 0

/-- WriteResultAndFlag (R190, R35): both orders, by VF_ORDER. -/
def writeResultAndFlag (x : Reg) (r : Byte) (f : Bool) (s : State) : State :=
  match s.params.vfOrder with
  | .flagLast => (s.setV x r).setV Reg.vf (flagByte f)
  | .resultLast => (s.setV Reg.vf (flagByte f)).setV x r

/-- A draw in progress: the display and the collision flag so far (R240). -/
abbrev Drawing := Display × Bool

/-- One sprite bit (R240, R241): a 1 inverts its pixel and sets the flag if the pixel was lit; a 0 does nothing. -/
def drawBit (bit : Bool) (x y : Nat) (d : Drawing) : Drawing :=
  if bit then (d.1.flip x y, d.2 || d.1.pixel x y) else d

/-- One sprite row from column `x0`, the columns `c`, `c + 1`, ... in turn; bit 7 is the leftmost pixel (R240). -/
def drawRow (x0 y : Nat) (b : Byte) (d : Drawing) : Drawing :=
  (List.range 8).foldl (fun d c => drawBit (b.getLsbD (7 - c)) (x0 + c) y d) d

/-- The sprite's rows from display row `y` downwards (R240). -/
def drawRows (x0 y : Nat) : List Byte → Drawing → Drawing
  | [], d => d
  | b :: bs, d => drawRows x0 (y + 1) bs (drawRow x0 y b d)

/-- The whole draw (R240): the pixels, then VF as the collision flag, always written. -/
def drawSprite (x0 y0 : Byte) (rows : List Byte) (s : State) : State :=
  (s.setDisplay (drawRows x0.toNat y0.toNat rows (s.display, false)).1).setV Reg.vf
    (flagByte (drawRows x0.toNat y0.toNat rows (s.display, false)).2)

end Sys2Proof.Machine
end

