-- ==== Sys2Proof/Machine/Alu.lean ====
section
/-! DEFINITION. Machine/Alu.lean: load and add immediate and the 8XYn ALU (41_alu.md). All arithmetic is unsigned on 8 bits
and wraps (R192). None of these raises; the operands are read before the first write (00_scope.md R16). -/

namespace Sys2Proof.Machine

/-- 6XNN LD Vx, byte (R180). -/
def execLdImm (x : Reg) (nn : Byte) (s : State) : Host.Outcome State Fault Refusal := .next (s.setV x nn)

/-- 7XNN ADD Vx, byte (R181): no flag. -/
def execAddImm (x : Reg) (nn : Byte) (s : State) : Host.Outcome State Fault Refusal :=
  .next (s.setV x (s.getV x + nn))

/-- 8XY0 LD Vx, Vy (R182). -/
def execLdReg (x y : Reg) (s : State) : Host.Outcome State Fault Refusal := .next (s.setV x (s.getV y))

/-- 8XY1 OR Vx, Vy (R183): VF is not written. -/
def execOrReg (x y : Reg) (s : State) : Host.Outcome State Fault Refusal :=
  .next (s.setV x (s.getV x ||| s.getV y))

/-- 8XY2 AND Vx, Vy (R184): VF is not written. -/
def execAndReg (x y : Reg) (s : State) : Host.Outcome State Fault Refusal :=
  .next (s.setV x (s.getV x &&& s.getV y))

/-- 8XY3 XOR Vx, Vy (R185): VF is not written. -/
def execXorReg (x y : Reg) (s : State) : Host.Outcome State Fault Refusal :=
  .next (s.setV x (s.getV x ^^^ s.getV y))

/-- 8XY4 ADD Vx, Vy (R186): VF is the carry. -/
def execAddReg (x y : Reg) (s : State) : Host.Outcome State Fault Refusal :=
  .next (writeResultAndFlag x (s.getV x + s.getV y) (carryFlag (s.getV x) (s.getV y)) s)

/-- 8XY5 SUB Vx, Vy (R187): VF is NOT borrow. -/
def execSubReg (x y : Reg) (s : State) : Host.Outcome State Fault Refusal :=
  .next (writeResultAndFlag x (s.getV x - s.getV y) (noBorrowFlag (s.getV x) (s.getV y)) s)

/-- 8XY6 SHR Vx (R188): the source is VX; Y is ignored (R122). -/
def execShr (x _y : Reg) (s : State) : Host.Outcome State Fault Refusal :=
  .next (writeResultAndFlag x (s.getV x >>> 1) (shiftedOutFlag (s.getV x)) s)

/-- 8XY7 SUBN Vx, Vy (R189): VY - VX, VF is NOT borrow. -/
def execSubnReg (x y : Reg) (s : State) : Host.Outcome State Fault Refusal :=
  .next (writeResultAndFlag x (s.getV y - s.getV x) (noBorrowFlag (s.getV y) (s.getV x)) s)

end Sys2Proof.Machine
end

