-- ==== Sys2Proof/Machine/Draw.lean ====
section
/-! DEFINITION. Machine/Draw.lean: draw sprite (43_draw.md). -/

namespace Sys2Proof.Machine

/-- DXYN DRW Vx, Vy, nibble (R240): all sprite rows are read first, so an OutOfBounds changes no pixel; with N = 0 nothing
is read or drawn and VF is 0 (R242). -/
def execDrw (x y : Reg) (n : Nibble) (s : State) : Host.Outcome State Fault Refusal :=
  commit (.drw x y n) s
    ((readBlock s (indexBase s) n.toNat).map fun rows => drawSprite (s.getV x) (s.getV y) rows s)

end Sys2Proof.Machine
end

