-- ==== Sys2Proof/Machine/Flow.lean ====
section
/-! DEFINITION. Machine/Flow.lean: display clear, return, jump, call and the skips on registers (40_flow.md).
Every meaning is the execute phase of its instruction: it takes the state after the fetch, where pc is A + 2 (R36). -/

namespace Sys2Proof.Machine

/-- 00E0 CLS (R150). -/
def execCls (s : State) : Host.Outcome State Fault Refusal := .next (s.setDisplay Display.clear)

/-- 00EE RET (R151): StackUnderflow when sp = 0. -/
def execRet (s : State) : Host.Outcome State Fault Refusal :=
  commit .ret s ((pop s).map fun r => r.2.setPc r.1)

/-- 1NNN JP addr (R152). -/
def execJp (nnn : Addr) (s : State) : Host.Outcome State Fault Refusal := .next (s.setPc (addrOperand nnn))

/-- 2NNN CALL addr (R153): StackOverflow when sp = 16. -/
def execCall (nnn : Addr) (s : State) : Host.Outcome State Fault Refusal :=
  commit (.call nnn) s ((push s s.pc).map fun t => t.setPc (addrOperand nnn))

/-- 3XNN SE Vx, byte (R154). -/
def execSeImm (x : Reg) (nn : Byte) (s : State) : Host.Outcome State Fault Refusal :=
  .next (s.skipIf (s.getV x == nn))

/-- 4XNN SNE Vx, byte (R155). -/
def execSneImm (x : Reg) (nn : Byte) (s : State) : Host.Outcome State Fault Refusal :=
  .next (s.skipIf (s.getV x != nn))

/-- 5XY0 SE Vx, Vy (R156). -/
def execSeReg (x y : Reg) (s : State) : Host.Outcome State Fault Refusal :=
  .next (s.skipIf (s.getV x == s.getV y))

/-- 9XY0 SNE Vx, Vy (R157). -/
def execSneReg (x y : Reg) (s : State) : Host.Outcome State Fault Refusal :=
  .next (s.skipIf (s.getV x != s.getV y))

end Sys2Proof.Machine
end

