-- ==== Sys2Proof/Machine/Index.lean ====
section
/-! DEFINITION. Machine/Index.lean: load index, jump with offset, random (42_index_jump_random.md). -/

namespace Sys2Proof.Machine

/-- ANNN LD I, addr (R220). -/
def execLdI (nnn : Addr) (s : State) : Host.Outcome State Fault Refusal := .next (s.setI (addrOperand nnn))

/-- BNNN JP V0, addr (R222): the offset is always V0 and the sum is not masked to 12 bits. -/
def execJpV0 (nnn : Addr) (s : State) : Host.Outcome State Fault Refusal :=
  .next (s.setPc (addrOperand nnn + regWide s 0))

/-- VX = rnd AND NN, for a given random byte (R223). -/
def loadMasked (rnd : Byte) (x : Reg) (nn : Byte) (s : State) : State := s.setV x (rnd &&& nn)

/-- CXNN RND Vx, byte (R223), with the step's free random byte (R58). -/
def execRnd (x : Reg) (nn : Byte) (s : State) : Host.Outcome State Fault Refusal :=
  .next (loadMasked (rndInput s) x nn s)

end Sys2Proof.Machine
end

