-- ==== Sys2Proof/Machine/Keypad.lean ====
section
/-! DEFINITION. Machine/Keypad.lean: the skips on a key (44_keypad.md). -/

namespace Sys2Proof.Machine

/-- EX9E SKP Vx (R261): KeyOutOfRange when V[X] > 15. -/
def execSkp (x : Reg) (s : State) : Host.Outcome State Fault Refusal :=
  commit (.skp x) s ((keyOperand s x).map fun k => s.skipIf k)

/-- EXA1 SKNP Vx (R262): KeyOutOfRange when V[X] > 15. -/
def execSknp (x : Reg) (s : State) : Host.Outcome State Fault Refusal :=
  commit (.sknp x) s ((keyOperand s x).map fun k => s.skipIf (!k))

end Sys2Proof.Machine
end

