-- ==== Sys2Proof/Machine/Misc.lean ====
section
/-! DEFINITION. Machine/Misc.lean: the FX family: timers, index, font, BCD, block transfer, key wait (45_misc_f.md). The tick
that follows each of them is the step's (`endStep`). -/

namespace Sys2Proof.Machine

/-- FX07 LD Vx, DT (R270): dt before this step's tick. -/
def execLdVxDt (x : Reg) (s : State) : Host.Outcome State Fault Refusal := .next (s.setV x s.dt)

/-- FX15 LD DT, Vx (R280). -/
def execLdDtVx (x : Reg) (s : State) : Host.Outcome State Fault Refusal := .next (s.setDt (s.getV x))

/-- FX18 LD ST, Vx (R281). -/
def execLdStVx (x : Reg) (s : State) : Host.Outcome State Fault Refusal := .next (s.setSt (s.getV x))

/-- FX1E ADD I, Vx (R284): wraps at 2^16, VF is not written. -/
def execAddI (x : Reg) (s : State) : Host.Outcome State Fault Refusal := .next (s.setI (s.i + regWide s x))

/-- FX29 LD F, Vx (R285): VX * 5, VX not masked to a nibble. -/
def execLdF (x : Reg) (s : State) : Host.Outcome State Fault Refusal := .next (s.setI (regWide s x * 5))

/-- The three decimal digits of a byte, hundreds first (R286). -/
def decimalDigits (a : Byte) : List Byte := [a / 100, (a / 10) % 10, a % 10]

/-- FX33 LD B, Vx (R286): three checked writes; if one fails none takes effect. -/
def execLdB (x : Reg) (s : State) : Host.Outcome State Fault Refusal :=
  commit (.ldB x) s (writeBlock s (indexBase s) (decimalDigits (s.getV x)))

/-- FX55 LD [I], Vx (R287): V0..VX to memory from I; I is unchanged. -/
def execStoreRegs (x : Reg) (s : State) : Host.Outcome State Fault Refusal :=
  commit (.storeRegs x) s (writeBlock s (indexBase s) (regsUpTo s x))

/-- FX65 LD Vx, [I] (R288): memory from I to V0..VX; I is unchanged. -/
def execLoadRegs (x : Reg) (s : State) : Host.Outcome State Fault Refusal :=
  commit (.loadRegs x) s
    ((readBlock s (indexBase s) (x.val + 1)).map fun bs => loadRegsFrom s 0 bs)

/-- FX0A LD Vx, K (R271): the lowest pressed key, or the stall `pc <- pc - 2`. -/
def execLdVxK (x : Reg) (s : State) : Host.Outcome State Fault Refusal :=
  match lowestPressed s.keys.toList with
  | some k => .next (s.setV x (BitVec.ofNat 8 k))
  | none => .next s.rewind

end Sys2Proof.Machine
end

