-- ==== Sys2Proof/Machine/Step.lean ====
section
/-! DEFINITION. Machine/Step.lean: one step request (30_encoding.md R140). It only calls: the fetch, the end of a step, the
fatal-error entry and the unmatched opcode are in Machine/Ops.lean, the meanings behind `exec`. -/

namespace Sys2Proof.Machine

/-- One step (R140). A halted block ignores the request (R321); after a refused load no step may follow (R352). Else: fetch
at pc, decode, execute on the state with pc advanced, tick. A fatal error is taken on the state at the start of the step
(R320). -/
def step (s : State) : Host.Outcome State Fault Refusal :=
  if s.halted then .next s
  else if s.loadError then .refused .stepAfterLoadError
  else
    match fetch s with
    | .error r => .next (takeFatal s 0 r)
    | .ok op =>
      match decodeWord op with
      | .error _ => .next (unmatchedOpcode s op)
      | .ok i => afterExecute s.st (exec i s.advance)

/-- `s` with the instruction whose table bits are `w` stored at pc, big-endian, where the next step fetches it. No row is
longer than 16 bits, so all bits above `nbits` are 0. -/
def State.withFetchWord (s : State) (nbits w : Nat) : State := s.placeWord (tableWord nbits w)

end Sys2Proof.Machine
end

