-- ==== Sys2Proof/Machine/Interface.lean ====
section
/-! DEFINITION. Machine/Interface.lean: the block's interface (10_state.md R59, R60; 70_reset_and_hazards.md R350-R353): what
the collaborators may do between steps, and what they can observe. -/

namespace Sys2Proof.Machine

/-- The moves at a step boundary (R59, R60). -/
inductive HostEvent where
  /-- The caller applies reset (R350, R351). -/
  | reset
  /-- The loader presents a ROM (R352). -/
  | load (rom : List Byte)
  /-- The input collaborator sets the sixteen flags (R50, R60). -/
  | setKeys (keys : Vector Bool 16)
  /-- The caller requests a step (R140). -/
  | step
  deriving DecidableEq, Repr

/-- Reset at a step boundary (R351): every piece of the block's state takes its reset value; the parameters are the
block's, and the random source is outside it (R55), so its counter goes on. -/
def applyReset (s : State) : State :=
  { State.resetWith s.params with rndIndex := s.rndIndex }

/-- Where a ROM is loaded (R7 PROG_BASE). -/
def progBase : Nat := 0x200

/-- Load(rom) (R352). Outside its window (after reset, before the first step and the first load) a load has no move. -/
def loadRom (rom : List Byte) (s : State) : Host.Outcome State Fault Refusal :=
  if !s.loadOpen then .refused .loadOutsideBoot
  else if wellFormedRom rom then
    .next { s with
      mem := Memory.putBytes s.params.font progBase rom s.mem
      loadError := false
      loadOpen := false }
  else .next { s with loadError := true, loadOpen := false }

/-- One move at a step boundary. -/
def hostStep : HostEvent → State → Host.Outcome State Fault Refusal
  | .reset, s => .next (applyReset s)
  | .load rom, s => loadRom rom s
  | .setKeys k, s => .next { s with keys := k }
  | .step, s => step s

/-- The output sound_active (R332). -/
def State.soundActive (s : State) : Bool := s.st != 0

/-- The output display: pixel D[p], p = y*64 + x (R48, R59). -/
def State.pixelAt (s : State) (p : Nat) : Bool := s.display.pixel (p % 64) (p / 64)

/-- The output err_kind (R59, R310). -/
def State.errKindOut (s : State) : BitVec 3 := s.err.kind.code

end Sys2Proof.Machine
end

