-- ==== Sys2Proof/Safety.lean ====
section
/-! DEFINITION. Safety.lean: what counts as a safe run, the invariant of the block, and the words the statements use.
The tables here (which registers, which bytes, which pc) are written from the spec's own tables (10_state.md R31, R37;
20_memory.md R85), not from the meanings. -/

namespace Sys2Proof.Machine

/-! ### Outcomes and runs -/

/-- The state an outcome leads to, if it is a next state. -/
def nextOf : Host.Outcome State Fault Refusal → Option State
  | .next t => some t
  | .fault _ => none
  | .refused _ => none

/-- A step request is served: the block is not halted (R321) and its ROM was not refused (R352). -/
abbrev State.Ready (s : State) : Prop := s.halted = false ∧ s.loadError = false

/-- The two bytes at pc are in memory and decode to `i` (R111, R120). -/
abbrev State.Holds (s : State) (i : Instr) : Prop :=
  s.pc.toNat ≤ 0xFFE ∧
    decodeWord (joinBytes (s.byteAt s.pc.toNat) (s.byteAt (s.pc.toNat + 1))) = .ok i

/-- The states the block can be in: reset with some parameters, then moves at step boundaries (R59, R60). -/
inductive Reachable : State → Prop where
  | reset (p : Params) : Reachable (State.resetWith p)
  | move {s t : State} (e : HostEvent) : Reachable s → hostStep e s = .next t → Reachable t

/-- A safe run is one in which no fatal error has occurred (60_exceptions.md R320, R321; 93_implementation_defined.md: "a
claim must take 'no fault' as a premise"). -/
abbrev State.Safe (s : State) : Prop := s.halted = false

/-! ### The invariant -/

/-- Memory is in canonical form, and the font lies as reset installed it: nothing is listed below 0x050 (R52, R88). -/
abbrev State.MemOk (s : State) : Prop :=
  Memory.wf s.params.font s.mem ∧ ∀ c ∈ s.mem, 0x50 ≤ c.1

/-- No reachable pc or stack entry needs the truncation to 16 bits (R39). -/
abbrev State.FlowOk (s : State) : Prop :=
  s.pc.toNat ≤ 0x10FE ∧ ∀ j : Fin 16, s.stack[j.val].toNat ≤ 0x1000

/-- The error record is legal (R62): a kind exactly when halted, all zero otherwise, the info at most 0x1000E. -/
abbrev State.ErrOk (s : State) : Prop :=
  (s.halted = true ↔ s.err.kind ≠ .none) ∧ (s.halted = false → s.err = ErrRecord.cleared) ∧
    s.err.info.toNat ≤ 0x1000E

/-- The outputs agree with the state: sound_stop only with a sound timer at 0 and no error (R320, R333); a refused load
closes the loader's window (R352). -/
abbrev State.OutOk (s : State) : Prop :=
  (s.soundStop = true → s.st = 0 ∧ s.halted = false) ∧ (s.loadError = true → s.loadOpen = false)

/-- The invariant of the block. -/
abbrev State.Inv (s : State) : Prop := s.MemOk ∧ s.FlowOk ∧ s.ErrOk ∧ s.OutOk

/-! ### Words of the statements -/

/-- `t` differs from `s` only in registers that `p` names: every field but the register file is equal, and
so is every register `p` does not name. -/
abbrev OnlyRegs (p : Reg → Prop) (s t : State) : Prop :=
  { t with v := s.v } = s ∧ ∀ r, ¬ p r → t.getV r = s.getV r

/-- `t` is the fatal-error state of R320 for a step whose instruction address is `a`: the record holds the kind, the
opcode, the address and the info; pc is `a`; halted is 1 and sound_stop 0; every other field but the model's own
`loadOpen` is as in `s`. -/
abbrev Raised (s t : State) (a : Word) (k : ErrKind) (op : Word) (info : Nat) : Prop :=
  { t with
      pc := s.pc, halted := s.halted, err := s.err, soundStop := s.soundStop, loadOpen := s.loadOpen } = s ∧
    t.pc = a ∧ t.halted = true ∧ t.soundStop = false ∧
    t.err = { kind := k, opcode := op, addr := a, info := BitVec.ofNat 17 info }

/-- The write-back of a result and a flag (R190, R35), both as numbers, by VF_ORDER. -/
abbrev ResultAndFlag (x : Reg) (result flag : Nat) (s t : State) : Prop :=
  OnlyRegs (fun r => r = x ∨ r = Reg.vf) s t ∧
    (x ≠ Reg.vf → (t.getV x).toNat = result ∧ (t.getV Reg.vf).toNat = flag) ∧
    (x = Reg.vf → (t.getV Reg.vf).toNat =
      match s.params.vfOrder with
      | .flagLast => flag
      | .resultLast => result)

/-- Which registers an instruction may write (R31). FX0A writes only when a key is pressed. -/
def mayWrite (i : Instr) (s : State) (r : Reg) : Bool :=
  match i with
  | .ldImm x _ => r = x
  | .addImm x _ => r = x
  | .ldReg x _ => r = x
  | .orReg x _ => r = x
  | .andReg x _ => r = x
  | .xorReg x _ => r = x
  | .rnd x _ => r = x
  | .ldVxDt x => r = x
  | .ldVxK x => r = x && s.keys.toList.any (fun k => k)
  | .addReg x _ => r = x || r = Reg.vf
  | .subReg x _ => r = x || r = Reg.vf
  | .shr x _ => r = x || r = Reg.vf
  | .subnReg x _ => r = x || r = Reg.vf
  | .drw _ _ _ => r = Reg.vf
  | .loadRegs x => r ≤ x
  | .cls => false
  | .ret => false
  | .jp _ => false
  | .call _ => false
  | .seImm _ _ => false
  | .sneImm _ _ => false
  | .seReg _ _ => false
  | .sneReg _ _ => false
  | .ldI _ => false
  | .jpV0 _ => false
  | .skp _ => false
  | .sknp _ => false
  | .ldDtVx _ => false
  | .ldStVx _ => false
  | .addI _ => false
  | .ldF _ => false
  | .ldB _ => false
  | .storeRegs _ => false

/-- The bytes an instruction stores to (R85): FX33 three and FX55 X + 1 from I upwards, the others none. -/
def storesTo (i : Instr) (s : State) (a : Nat) : Bool :=
  match i with
  | .ldB _ => indexBase s ≤ a && a < indexBase s + 3
  | .storeRegs x => indexBase s ≤ a && a ≤ indexBase s + x.val
  | _ => false

/-- The value pc holds at the end of a step that raises nothing (R37), from the state at the start of the step. -/
def muxPc (i : Instr) (s : State) : Word :=
  match i with
  | .jp nnn => nnn.setWidth 16
  | .call nnn => nnn.setWidth 16
  | .ret => if h : 0 < s.sp.val then s.stack[s.sp.val - 1]'(by omega) else s.pc
  | .jpV0 nnn => nnn.setWidth 16 + (s.getV 0).setWidth 16
  | .seImm x nn => if s.getV x = nn then s.pc + 4 else s.pc + 2
  | .sneImm x nn => if s.getV x = nn then s.pc + 2 else s.pc + 4
  | .seReg x y => if s.getV x = s.getV y then s.pc + 4 else s.pc + 2
  | .sneReg x y => if s.getV x = s.getV y then s.pc + 2 else s.pc + 4
  | .skp x => if s.keys.toList.getD (s.getV x).toNat false then s.pc + 4 else s.pc + 2
  | .sknp x => if s.keys.toList.getD (s.getV x).toNat false then s.pc + 2 else s.pc + 4
  | .ldVxK _ => if s.keys.toList.any (fun k => k) then s.pc + 2 else s.pc
  | _ => s.pc + 2

/-- Some 1 bit of the `n`-byte sprite at I lands on column x, row y when drawn at (x0, y0) (R240). -/
def spriteHits (s : State) (x0 y0 n x y : Nat) : Bool :=
  (List.range n).any fun r => (List.range 8).any fun c =>
    (s.byteAt (indexBase s + r)).getLsbD (7 - c) && (x0 + c) % 64 == x && (y0 + r) % 32 == y

/-- Some sprite bit equal to 1 lands on a pixel that was 1 before the draw (R241). -/
def spriteCollides (s : State) (x0 y0 n : Nat) : Bool :=
  (List.range 32).any fun y => (List.range 64).any fun x =>
    spriteHits s x0 y0 n x y && s.display.pixel x y

end Sys2Proof.Machine
end

