-- ==== Sys2Proof/Certificates/Slice0/Obligations.lean ====
section
/-! DEFINITION. Certificates/Slice0/Obligations.lean: the statements for the provers. The numbers R<n> are the rules of
spec/; D<n> are the decisions that spec/92_eei_decisions.md marks as the spec's own, and a statement that rests on one, or on
a sentence the spec marks [derived], names it. `exec i s` is the execute phase of `i`: `s` is the state after the fetch, where
pc is A + 2 (R36, log entry 10). -/

open Sys2Proof Sys2Proof.Machine

/-! ### Reset -/

/-- R57: the reset values, for every value of the parameters (halted and err by decision D25; FONT is the parameter of D21). -/
def Obligations.ResetLeavesTheStatedValues : Prop :=
  ∀ p : Params,
    let s := State.resetWith p
    (∀ r, s.getV r = 0) ∧ s.i = 0 ∧ s.pc = 0x200 ∧ s.sp = 0 ∧ (∀ j : Fin 16, s.stack[j.val] = 0) ∧
    s.dt = 0 ∧ s.st = 0 ∧ (∀ q < 2048, s.pixelAt q = false) ∧ (∀ k : Fin 16, s.keys[k.val] = false) ∧
    (∀ a : Fin 80, s.byteAt a.val = p.font[a.val]) ∧ (∀ a, 0x50 ≤ a → a ≤ 0xFFF → s.byteAt a = 0) ∧
    s.halted = false ∧ s.err = { kind := .none, opcode := 0, addr := 0, info := 0 }

/-- The invariant holds after reset, for every value of the parameters. Its part about the outputs holds because the model
chose load_error = 0, sound_stop = 0 and loadOpen = true at reset (log entries 6 and 9). -/
def Obligations.ResetMeetsTheInvariant : Prop := ∀ p : Params, (State.resetWith p).Inv

/-- R351, R57: reset may be applied to any state, halted or not, and every register, the display, the keypad, the timers,
memory and the error record then hold their reset values again (decision D25). That the counter rndIndex goes on, the
parameters stay, the outputs load_error and sound_stop become 0 and the loader's window opens again is the model's choice
(log entries 2, 3, 9 and 6). -/
def Obligations.ResetLeavesEveryState : Prop :=
  ∀ s : State, ∃ t, hostStep .reset s = .next t ∧ t.Inv ∧ t.Ready ∧
    { t with rndIndex := 0 } = State.resetWith s.params

/-! ### Encoding -/

/-- Decoding the encoding of any instruction gives it back, every operand at every value. -/
def Obligations.DecodeOfEncodeIsIdentity : Prop :=
  ∀ i : Instr, decodeWord (encode i) = .ok i ∧
    ∀ rest : List Byte, decodeBytes (encodeBytes i ++ rest) = .ok (i, rest)

/-- An opcode that decodes is the encoding of what it decodes to: no bit of it is dropped, not even the Y of 8XY6. -/
def Obligations.EncodeOfDecodeIsIdentity : Prop :=
  ∀ (op : Word) (i : Instr), decodeWord op = .ok i → encode i = op

/-- R120: the decoder selects the row whose mask and match the opcode fits, and rejects exactly when no row fits (the masks
are the spec's own transcription, [derived] in R120). -/
def Obligations.DecoderAgreesWithMaskTable : Prop :=
  ∀ op : Word,
    (∀ i, decodeWord op = .ok i → ∃ r, maskTable[i.rowIndex]? = some r ∧ r.fits op = true) ∧
    ((∃ i, decodeWord op = .ok i) ↔ wellFormedWord op = true)

/-- R121: at most one row of the table fits any opcode ([derived] in R121). -/
def Obligations.MaskRowsAreDisjoint : Prop :=
  ∀ (op : Word) (j k : Nat) (r q : Row), maskTable[j]? = some r → maskTable[k]? = some q →
    r.fits op = true → q.fits op = true → j = k

/-- R123: the unmatched opcodes, class by class ([derived] in R123; decision D9). -/
def Obligations.UnmatchedOpcodesAreTheListedOnes : Prop :=
  ∀ op : Word,
    let cls := op.toNat / 4096
    let n := op.toNat % 16
    let nn := op.toNat % 256
    (∃ c, decodeWord op = .error (.unmatched c)) ↔
      (cls = 0 ∧ op ≠ 0x00E0 ∧ op ≠ 0x00EE) ∨ (cls = 5 ∧ n ≠ 0) ∨ (cls = 8 ∧ 8 ≤ n) ∨ (cls = 9 ∧ n ≠ 0) ∨
      (cls = 0xE ∧ nn ∉ [0x9E, 0xA1]) ∨
      (cls = 0xF ∧ nn ∉ [0x07, 0x0A, 0x15, 0x18, 0x1E, 0x29, 0x33, 0x55, 0x65])

/-- Opcodes written out from the patterns of R120 decode to what they stand for. -/
def Obligations.SampleWordsDecode : Prop :=
  decodeWord 0x00E0 = .ok .cls ∧ decodeWord 0x2ABC = .ok (.call 0xABC) ∧
  decodeWord 0x6A2F = .ok (.ldImm 0xA 0x2F) ∧ decodeWord 0x8127 = .ok (.subnReg 1 2) ∧
  decodeWord 0xB300 = .ok (.jpV0 0x300) ∧ decodeWord 0xD125 = .ok (.drw 1 2 5) ∧
  decodeWord 0xE5A1 = .ok (.sknp 5) ∧ decodeWord 0xF365 = .ok (.loadRegs 3)

/-! ### The step -/

/-- R140: when the bytes at pc decode to `i`, the step is `exec i` on the state with pc advanced by 2, and then the end of
the step: nothing more after a fatal error, else the tick and sound_stop. -/
def Obligations.StepRunsTheDecodedInstruction : Prop :=
  ∀ (s : State) (i : Instr), s.Ready → s.Holds i →
    step s = afterExecute s.st (exec i { s with pc := s.pc + 2 })

/-- R111: the fetch is big-endian, at exact addresses; beyond 0xFFE the step raises OutOfBounds at the first byte that is
not in memory (decisions D3 and D17). -/
def Obligations.FetchIsBigEndianAndBounded : Prop :=
  ∀ s : State,
    (s.pc.toNat ≤ 0xFFE → ∃ op, fetch s = .ok op ∧
      op.toNat = 256 * (s.byteAt s.pc.toNat).toNat + (s.byteAt (s.pc.toNat + 1)).toNat ∧
      s.advance.pc.toNat = s.pc.toNat + 2) ∧
    (0xFFE < s.pc.toNat → s.Ready → ∃ t, step s = .next t ∧
      Raised s t s.pc .outOfBounds 0 (if 0xFFF < s.pc.toNat then s.pc.toNat else 0x1000))

/-- R124: an unmatched opcode raises DecodeError, or under Nop has no effect but the advance of pc and the tick
(decision D2; the record by D17). -/
def Obligations.UnmatchedOpcodeFollowsParameter : Prop :=
  ∀ (s : State) (e : Reject), s.Ready → s.pc.toNat ≤ 0xFFE →
    decodeWord (joinBytes (s.byteAt s.pc.toNat) (s.byteAt (s.pc.toNat + 1))) = .error e →
    ∃ t, step s = .next t ∧
      (s.params.decodeUnmatched = .fatal →
        Raised s t s.pc .decodeError (joinBytes (s.byteAt s.pc.toNat) (s.byteAt (s.pc.toNat + 1))) 0) ∧
      (s.params.decodeUnmatched = .nop →
        t.pc = s.pc + 2 ∧ t.dt.toNat = s.dt.toNat - 1 ∧ t.st.toNat = s.st.toNat - 1 ∧
        { t with
            pc := s.pc, dt := s.dt, st := s.st, soundStop := s.soundStop, loadOpen := s.loadOpen,
            rndIndex := s.rndIndex } = s)

/-- R321: a halted block ignores step requests, and of the moves at a boundary only reset clears halted or the record
(decisions D17 and D25). That the request leaves sound_stop too as it is, and that halted is looked at before load_error, are
the model's readings (log entries 15 and 12). -/
def Obligations.HaltedBlockWaitsForReset : Prop :=
  ∀ s : State, s.halted = true →
    step s = .next s ∧
    (∀ (e : HostEvent) (t : State), hostStep e s = .next t → e ≠ .reset → t.halted = true ∧ t.err = s.err) ∧
    (∃ t, hostStep .reset s = .next t ∧ t.halted = false ∧ t.err = ErrRecord.cleared)

/-- R320: when a step raises, every state element has its value at the start of the step, there is no tick, sound_stop is 0,
halted is 1, and the record holds the opcode (0 when the fetch failed) and the instruction address (decision D17). -/
def Obligations.FatalErrorCommitsNothing : Prop :=
  ∀ s t : State, s.halted = false → step s = .next t → t.halted = true →
    Raised s t s.pc t.err.kind
      (if s.pc.toNat ≤ 0xFFE then joinBytes (s.byteAt s.pc.toNat) (s.byteAt (s.pc.toNat + 1)) else 0)
      t.err.info.toNat ∧
    t.err.kind ≠ .none

/-- R330: at the end of every step that raises nothing, each timer is one less than the execute phase left it, or 0. The
execute phase of FX15 leaves V[X] in dt, that of FX18 leaves V[X] in st (R280, R281; the value at the end of the step is
[derived] there); in every other step, a stalled FX0A and an unmatched opcode under Nop among them, they are as at the start
(R46, R47, the latter [derived] in part). -/
def Obligations.EveryCompletedStepTicks : Prop :=
  ∀ s t : State, s.Ready → step s = .next t → t.halted = false →
    (∀ x, s.Holds (.ldDtVx x) → t.dt.toNat = (s.getV x).toNat - 1) ∧
    ((∀ x, ¬ s.Holds (.ldDtVx x)) → t.dt.toNat = s.dt.toNat - 1) ∧
    (∀ x, s.Holds (.ldStVx x) → t.st.toNat = (s.getV x).toNat - 1) ∧
    ((∀ x, ¬ s.Holds (.ldStVx x)) → t.st.toNat = s.st.toNat - 1)

/-- R333: sound_stop is 1 for the step in which the sound timer became zero and 0 otherwise, and 0 for a faulting step
(decisions D22 and D17). -/
def Obligations.SoundStopMarksTheStepThatReachedZero : Prop :=
  ∀ s t : State, s.Ready → step s = .next t →
    (t.soundStop = true ↔ t.halted = false ∧ s.st ≠ 0 ∧ t.st = 0)

/-- Every step request that the spec gives an effect has one: the step answers a next state from every state whose load
was not refused (that none follows a refused load is log entry 12). -/
def Obligations.EveryServedStepAnswers : Prop :=
  ∀ s : State, s.loadError = false → ∃ t, step s = .next t

/-- R37: the value of pc at the end of a step that raises no fatal error ([derived] in R37). -/
def Obligations.ProgramCounterMux : Prop :=
  ∀ (s t : State) (i : Instr), s.Ready → s.Holds i → step s = .next t → t.halted = false →
    t.pc = muxPc i s

/-! ### Invariants -/

/-- Every step keeps the invariant: canonical memory with an untouched font, pc and stack entries within R39, a legal error
record (R62), consistent outputs. R39 and R62 are marked [derived]; loadOpen is the model's own (log entry 6). -/
def Obligations.InvariantKeptByStep : Prop :=
  ∀ s t : State, s.Inv → step s = .next t → t.Inv

/-- So does every move of the collaborators; hence every reachable state meets the invariant. R39 and R62 are marked [derived];
that reset clears load_error and sound_stop, and the loader's window loadOpen, are the model's choice (log entries 9 and 6). -/
def Obligations.ReachableStatesMeetTheInvariant : Prop :=
  (∀ (s t : State) (e : HostEvent), s.Inv → hostStep e s = .next t → t.Inv) ∧
  ∀ s : State, Reachable s → s.Inv

/-- R52: no step changes a byte of the font, in any state; and in every state that meets the invariant those bytes are the
parameter FONT (decisions D16 and D21). -/
def Obligations.FontIsImmutable : Prop :=
  (∀ s t : State, step s = .next t → ∀ a, a ≤ 0x04F → t.byteAt a = s.byteAt a) ∧
  (∀ s : State, s.Inv → ∀ a : Fin 80, s.byteAt a.val = s.params.font[a.val])

/-! ### Frames, over all instructions -/

/-- R31: an instruction writes at most the registers the table lists for it ([derived] in R31). -/
def Obligations.OnlyListedRegistersAreWritten : Prop :=
  ∀ (i : Instr) (s t : State) (r : Reg), exec i s = .next t → mayWrite i s r = false →
    t.getV r = s.getV r

/-- Every byte of memory outside the bytes FX33 and FX55 store to reads as before; the other instructions store nothing. -/
def Obligations.OnlyStoredBytesChange : Prop :=
  ∀ (i : Instr) (s t : State) (a : Nat), exec i s = .next t → storesTo i s a = false →
    t.byteAt a = s.byteAt a

/-- The other state: I is written only by ANNN, FX1E, FX29 (R40), sp and the stack only by 2NNN and 00EE (R42), dt and st
only by FX15 and FX18 (R46, R47), the display only by 00E0 and DXYN (R48); the keypad and the parameters never (R50); the
error record, halted and sound_stop only by a fatal error (decision D17). -/
def Obligations.OtherStateIsWrittenOnlyByItsInstructions : Prop :=
  ∀ (i : Instr) (s t : State), exec i s = .next t →
    (t.i = s.i ∨ ∃ x nnn, i = .ldI nnn ∨ i = .addI x ∨ i = .ldF x) ∧
    (t.sp = s.sp ∧ t.stack = s.stack ∨ i = .ret ∨ ∃ nnn, i = .call nnn) ∧
    (t.dt = s.dt ∨ ∃ x, i = .ldDtVx x) ∧ (t.st = s.st ∨ ∃ x, i = .ldStVx x) ∧
    (t.display = s.display ∨ i = .cls ∨ ∃ x y n, i = .drw x y n) ∧
    t.keys = s.keys ∧ t.params = s.params ∧ t.loadError = s.loadError ∧
    (t.halted = s.halted ∧ t.err = s.err ∧ t.soundStop = s.soundStop ∨
      t.halted = true ∧ t.soundStop = false ∧ t.err.opcode = encode i)

/-- R310: which kinds each instruction's execute phase can raise (FontWrite and KeyOutOfRange by decisions D16 and D13). -/
def Obligations.KindsRaisedByEachInstruction : Prop :=
  ∀ (i : Instr) (s t : State), exec i s = .next t → s.halted = false → t.halted = true →
    (t.err.kind = .stackOverflow ∧ ∃ nnn, i = .call nnn) ∨
    (t.err.kind = .stackUnderflow ∧ i = .ret) ∨
    (t.err.kind = .outOfBounds ∧
      ∃ x y n, i = .drw x y n ∨ i = .ldB x ∨ i = .storeRegs x ∨ i = .loadRegs x) ∨
    (t.err.kind = .fontWrite ∧ ∃ x, i = .ldB x ∨ i = .storeRegs x) ∨
    (t.err.kind = .keyOutOfRange ∧ ∃ x, i = .skp x ∨ i = .sknp x)

/-! ### Flow control (40_flow.md) -/

/-- R150: CLS clears every pixel and changes nothing else. -/
def Obligations.ClearDisplayZeroesEveryPixel : Prop :=
  ∀ s : State, ∃ t, exec .cls s = .next t ∧ (∀ q < 2048, t.pixelAt q = false) ∧
    { t with display := s.display } = s

/-- R151: RET pops the return address and keeps the slot; with sp = 0 it raises StackUnderflow (the slot
by decision D24, the record by D17). -/
def Obligations.ReturnPopsTheStack : Prop :=
  ∀ s : State,
    (∀ h : 0 < s.sp.val, ∃ t, exec .ret s = .next t ∧
      t.pc = s.stack[s.sp.val - 1]'(by omega) ∧ t.sp.val + 1 = s.sp.val ∧
      { t with pc := s.pc, sp := s.sp } = s) ∧
    (s.sp.val = 0 → ∃ t, exec .ret s = .next t ∧
      Raised s t (s.pc - 2) .stackUnderflow 0x00EE s.pc.toNat)

/-- R152: JP sets pc to NNN and changes nothing else. -/
def Obligations.JumpSetsThePc : Prop :=
  ∀ (nnn : Addr) (s : State), ∃ t, exec (.jp nnn) s = .next t ∧
    t.pc.toNat = nnn.toNat ∧ { t with pc := s.pc } = s

/-- R153: CALL pushes pc (A + 2) and sets pc to NNN; with sp = 16 it raises StackOverflow (the record by
decision D17). -/
def Obligations.CallPushesTheReturnAddress : Prop :=
  ∀ (nnn : Addr) (s : State),
    (∀ h : s.sp.val < 16, ∃ t, exec (.call nnn) s = .next t ∧
      t.pc.toNat = nnn.toNat ∧ t.sp.val = s.sp.val + 1 ∧ t.stack[s.sp.val] = s.pc ∧
      (∀ j : Fin 16, j.val ≠ s.sp.val → t.stack[j.val] = s.stack[j.val]) ∧
      { t with pc := s.pc, sp := s.sp, stack := s.stack } = s) ∧
    (s.sp.val = 16 → ∃ t, exec (.call nnn) s = .next t ∧
      Raised s t (s.pc - 2) .stackOverflow (encode (.call nnn)) s.pc.toNat)

/-- R151, the round trip: after a call, a return from any state with the same stack resumes at the address after the call
and restores sp. -/
def Obligations.CallThenReturnRoundTrip : Prop :=
  ∀ (nnn : Addr) (s t u : State), s.sp.val < 16 → exec (.call nnn) s = .next t →
    u.sp = t.sp → u.stack = t.stack →
    ∃ w, exec .ret u = .next w ∧ w.pc = s.pc ∧ w.sp = s.sp ∧ { w with pc := u.pc, sp := u.sp } = u

/-- R154, R155: the skips on a register and a constant add 2 to pc exactly when their condition holds. -/
def Obligations.ImmediateSkips : Prop :=
  ∀ (x : Reg) (nn : Byte) (s : State),
    (∃ t, exec (.seImm x nn) s = .next t ∧ { t with pc := s.pc } = s ∧
      t.pc = if s.getV x = nn then s.pc + 2 else s.pc) ∧
    (∃ t, exec (.sneImm x nn) s = .next t ∧ { t with pc := s.pc } = s ∧
      t.pc = if s.getV x = nn then s.pc else s.pc + 2)

/-- R156, R157: the skips on two registers. -/
def Obligations.RegisterSkips : Prop :=
  ∀ (x y : Reg) (s : State),
    (∃ t, exec (.seReg x y) s = .next t ∧ { t with pc := s.pc } = s ∧
      t.pc = if s.getV x = s.getV y then s.pc + 2 else s.pc) ∧
    (∃ t, exec (.sneReg x y) s = .next t ∧ { t with pc := s.pc } = s ∧
      t.pc = if s.getV x = s.getV y then s.pc else s.pc + 2)

/-! ### Load, add and ALU (41_alu.md) -/

/-- R180, R181: load immediate, and add immediate with 8-bit wraparound and no flag. -/
def Obligations.ImmediateLoadAndAdd : Prop :=
  ∀ (x : Reg) (nn : Byte) (s : State),
    (∃ t, exec (.ldImm x nn) s = .next t ∧ OnlyRegs (fun r => r = x) s t ∧ t.getV x = nn) ∧
    (∃ t, exec (.addImm x nn) s = .next t ∧ OnlyRegs (fun r => r = x) s t ∧
      (t.getV x).toNat = ((s.getV x).toNat + nn.toNat) % 256)

/-- R182 to R185: assign, OR, AND, XOR, bit by bit; VF is not written unless it is X (decision D8). -/
def Obligations.AssignAndLogic : Prop :=
  ∀ (x y : Reg) (s : State),
    (∃ t, exec (.ldReg x y) s = .next t ∧ OnlyRegs (fun r => r = x) s t ∧ t.getV x = s.getV y) ∧
    (∃ t, exec (.orReg x y) s = .next t ∧ OnlyRegs (fun r => r = x) s t ∧
      ∀ k < 8, (t.getV x).getLsbD k = ((s.getV x).getLsbD k || (s.getV y).getLsbD k)) ∧
    (∃ t, exec (.andReg x y) s = .next t ∧ OnlyRegs (fun r => r = x) s t ∧
      ∀ k < 8, (t.getV x).getLsbD k = ((s.getV x).getLsbD k && (s.getV y).getLsbD k)) ∧
    (∃ t, exec (.xorReg x y) s = .next t ∧ OnlyRegs (fun r => r = x) s t ∧
      ∀ k < 8, (t.getV x).getLsbD k = ((s.getV x).getLsbD k ^^ (s.getV y).getLsbD k))

/-- R186: add with carry, under both values of VF_ORDER (which write comes last when X = F is decision D6; operands read
before the first write, D7). -/
def Obligations.AddSetsCarry : Prop :=
  ∀ (x y : Reg) (s : State), ∃ t, exec (.addReg x y) s = .next t ∧
    ResultAndFlag x (((s.getV x).toNat + (s.getV y).toNat) % 256)
      (if 255 < (s.getV x).toNat + (s.getV y).toNat then 1 else 0) s t

/-- R187: subtract with borrow, under both values of VF_ORDER (decisions D6 and D7). -/
def Obligations.SubSetsNotBorrow : Prop :=
  ∀ (x y : Reg) (s : State), ∃ t, exec (.subReg x y) s = .next t ∧
    ResultAndFlag x (((s.getV x).toNat + 256 - (s.getV y).toNat) % 256)
      (if (s.getV y).toNat ≤ (s.getV x).toNat then 1 else 0) s t

/-- R188: shift right; the source is VX whatever Y is ([derived] in R122), under both values of VF_ORDER (decisions D6 and
D7). -/
def Obligations.ShiftRightSetsBitOut : Prop :=
  ∀ (x y : Reg) (s : State), ∃ t, exec (.shr x y) s = .next t ∧
    ResultAndFlag x ((s.getV x).toNat / 2) ((s.getV x).toNat % 2) s t

/-- R189: reverse subtract with borrow, under both values of VF_ORDER (decisions D6 and D7; its wraparound is marked [derived]
in R189). -/
def Obligations.ReverseSubSetsNotBorrow : Prop :=
  ∀ (x y : Reg) (s : State), ∃ t, exec (.subnReg x y) s = .next t ∧
    ResultAndFlag x (((s.getV y).toNat + 256 - (s.getV x).toNat) % 256)
      (if (s.getV x).toNat ≤ (s.getV y).toNat then 1 else 0) s t

/-! ### Index, jump with offset, random (42_index_jump_random.md) -/

/-- R220: LD I. -/
def Obligations.LoadIndex : Prop :=
  ∀ (nnn : Addr) (s : State), ∃ t, exec (.ldI nnn) s = .next t ∧ t.i.toNat = nnn.toNat ∧
    { t with i := s.i } = s

/-- R222: the exact sum NNN + V0, not masked to 12 bits (decisions D3 and D5). -/
def Obligations.JumpWithOffset : Prop :=
  ∀ (nnn : Addr) (s : State), ∃ t, exec (.jpV0 nnn) s = .next t ∧
    t.pc.toNat = nnn.toNat + (s.getV 0).toNat ∧ { t with pc := s.pc } = s

/-- R223: VX is the step's free random byte AND NN, whatever that byte is (decision D20; the free value `Config.rnd` is log
entry 1). -/
def Obligations.RandomIsMasked : Prop :=
  ∀ (x : Reg) (nn : Byte) (s : State), ∃ t, exec (.rnd x nn) s = .next t ∧
    OnlyRegs (fun r => r = x) s t ∧ t.getV x = Config.rnd s.rndIndex &&& nn

/-- R58: only CXNN uses the random input: with any other random input in its place, every other instruction does the same
(decision D20; rndIndex is the model's own, log entry 2). -/
def Obligations.OnlyRandomUsesTheRandomInput : Prop :=
  ∀ (i : Instr) (s t : State) (k : Nat), (∀ x nn, i ≠ .rnd x nn) → exec i s = .next t →
    exec i { s with rndIndex := k } = .next { t with rndIndex := k }

/-! ### Draw (43_draw.md) -/

/-- R240, R241: when the sprite's bytes are in memory, every pixel is inverted exactly when a 1 bit of the sprite lands on
it, VF is 1 exactly when a 1 bit lands on a lit pixel, and nothing else changes. N = 0 needs no byte in memory
(decisions D10 bit order, D11 wrap, D12 N = 0). -/
def Obligations.DrawXorsTheSprite : Prop :=
  ∀ (x y : Reg) (n : Nibble) (s : State),
    (n.toNat = 0 ∨ indexBase s + n.toNat ≤ 0x1000) →
    ∃ t, exec (.drw x y n) s = .next t ∧
      (∀ c < 64, ∀ r < 32, t.display.pixel c r =
        (s.display.pixel c r ^^ spriteHits s (s.getV x).toNat (s.getV y).toNat n.toNat c r)) ∧
      t.getV Reg.vf =
        (if spriteCollides s (s.getV x).toNat (s.getV y).toNat n.toNat = true then 1 else 0) ∧
      OnlyRegs (fun r => r = Reg.vf) s { t with display := s.display }

/-- R240: a sprite byte outside memory raises OutOfBounds with the lowest such address, and nothing is drawn
(decisions D3 and D17). -/
def Obligations.DrawOutsideMemoryRaises : Prop :=
  ∀ (x y : Reg) (n : Nibble) (s : State), n.toNat ≠ 0 → 0x1000 < indexBase s + n.toNat →
    ∃ t, exec (.drw x y n) s = .next t ∧
      Raised s t (s.pc - 2) .outOfBounds (encode (.drw x y n)) (max (indexBase s) 0x1000)

/-- Drawing the same sprite again at the same place (D0 §8 "Draw/collision idempotence", quoted in R242 and vector L1-4):
the display is restored, and the second draw reports a collision exactly when the first set some pixel. R242's shorter wording
(a collision whenever the sprite has a 1 bit) disagrees with R241 where the first draw only cleared pixels: log entry 14. -/
def Obligations.DrawTwiceRestoresTheDisplay : Prop :=
  ∀ (x y x' y' : Reg) (n : Nibble) (s t u w : State),
    s.halted = false → exec (.drw x y n) s = .next t → t.halted = false →
    u.display = t.display → u.mem = s.mem → u.params = s.params → u.i = s.i → u.halted = false →
    u.getV x' = s.getV x → u.getV y' = s.getV y →
    exec (.drw x' y' n) u = .next w →
    w.display = s.display ∧
      (w.getV Reg.vf = 1 ↔
        ∃ c < 64, ∃ r < 32, s.display.pixel c r = false ∧ t.display.pixel c r = true)

/-! ### Keypad (44_keypad.md) -/

/-- R260 to R262: the key skips test the flag of the key V[X] names; an index above 15 raises KeyOutOfRange
(decisions D13 and D17). -/
def Obligations.KeySkips : Prop :=
  ∀ (x : Reg) (s : State),
    (∀ h : (s.getV x).toNat < 16,
      (∃ t, exec (.skp x) s = .next t ∧ { t with pc := s.pc } = s ∧
        t.pc = if s.keys[(s.getV x).toNat] = true then s.pc + 2 else s.pc) ∧
      (∃ t, exec (.sknp x) s = .next t ∧ { t with pc := s.pc } = s ∧
        t.pc = if s.keys[(s.getV x).toNat] = true then s.pc else s.pc + 2)) ∧
    (16 ≤ (s.getV x).toNat →
      (∃ t, exec (.skp x) s = .next t ∧
        Raised s t (s.pc - 2) .keyOutOfRange (encode (.skp x)) (s.getV x).toNat) ∧
      (∃ t, exec (.sknp x) s = .next t ∧
        Raised s t (s.pc - 2) .keyOutOfRange (encode (.sknp x)) (s.getV x).toNat))

/-! ### Timers, index, font, BCD, block transfer, key wait (45_misc_f.md) -/

/-- R270: FX07 reads dt as it is before the tick. -/
def Obligations.ReadDelayTimer : Prop :=
  ∀ (x : Reg) (s : State), ∃ t, exec (.ldVxDt x) s = .next t ∧ OnlyRegs (fun r => r = x) s t ∧
    t.getV x = s.dt

/-- R280, R281: FX15 and FX18 write the timers. -/
def Obligations.WriteTimers : Prop :=
  ∀ (x : Reg) (s : State),
    (∃ t, exec (.ldDtVx x) s = .next t ∧ t.dt = s.getV x ∧ { t with dt := s.dt } = s) ∧
    (∃ t, exec (.ldStVx x) s = .next t ∧ t.st = s.getV x ∧ { t with st := s.st } = s)

/-- R284: FX1E adds VX to I modulo 2^16; VF is not written (decisions D5 and D15). -/
def Obligations.AddToIndex : Prop :=
  ∀ (x : Reg) (s : State), ∃ t, exec (.addI x) s = .next t ∧
    t.i.toNat = (s.i.toNat + (s.getV x).toNat) % 65536 ∧ { t with i := s.i } = s

/-- R285: FX29 sets I to VX * 5, VX not masked ([derived] in R285). -/
def Obligations.FontAddress : Prop :=
  ∀ (x : Reg) (s : State), ∃ t, exec (.ldF x) s = .next t ∧
    t.i.toNat = (s.getV x).toNat * 5 ∧ { t with i := s.i } = s

/-- R286: FX33 stores the three decimal digits of VX at I, I + 1, I + 2; I is unchanged. -/
def Obligations.BinaryCodedDecimal : Prop :=
  ∀ (x : Reg) (s : State), 0x50 ≤ indexBase s → indexBase s + 2 ≤ 0xFFF →
    ∃ t, exec (.ldB x) s = .next t ∧
      (t.byteAt (indexBase s)).toNat = (s.getV x).toNat / 100 ∧
      (t.byteAt (indexBase s + 1)).toNat = (s.getV x).toNat / 10 % 10 ∧
      (t.byteAt (indexBase s + 2)).toNat = (s.getV x).toNat % 10 ∧
      (∀ a, ¬ (indexBase s ≤ a ∧ a < indexBase s + 3) → t.byteAt a = s.byteAt a) ∧
      { t with mem := s.mem } = s

/-- R287: FX55 stores V0..VX at I..I + X; I is unchanged (decision D14). -/
def Obligations.BlockStore : Prop :=
  ∀ (x : Reg) (s : State), 0x50 ≤ indexBase s → indexBase s + x.val ≤ 0xFFF →
    ∃ t, exec (.storeRegs x) s = .next t ∧
      (∀ r : Reg, r ≤ x → t.byteAt (indexBase s + r.val) = s.getV r) ∧
      (∀ a, ¬ (indexBase s ≤ a ∧ a ≤ indexBase s + x.val) → t.byteAt a = s.byteAt a) ∧
      { t with mem := s.mem } = s

/-- R286, R287: a block write that meets the font or leaves memory raises for its first failing address, and nothing is
written (decisions D3, D16, D17, D19). -/
def Obligations.BlockWriteRaisesAtFirstFailingAddress : Prop :=
  ∀ (x : Reg) (s : State),
    (indexBase s ≤ 0x04F →
      (∃ t, exec (.ldB x) s = .next t ∧
        Raised s t (s.pc - 2) .fontWrite (encode (.ldB x)) (indexBase s)) ∧
      (∃ t, exec (.storeRegs x) s = .next t ∧
        Raised s t (s.pc - 2) .fontWrite (encode (.storeRegs x)) (indexBase s))) ∧
    (0xFFF < indexBase s + 2 → ∃ t, exec (.ldB x) s = .next t ∧
      Raised s t (s.pc - 2) .outOfBounds (encode (.ldB x)) (max (indexBase s) 0x1000)) ∧
    (0xFFF < indexBase s + x.val → ∃ t, exec (.storeRegs x) s = .next t ∧
      Raised s t (s.pc - 2) .outOfBounds (encode (.storeRegs x)) (max (indexBase s) 0x1000))

/-- R288: FX65 loads V0..VX from I..I + X; I and the registers above X are unchanged; an address above 0xFFF raises
OutOfBounds and no register changes (decisions D3, D14, D17). -/
def Obligations.BlockLoad : Prop :=
  ∀ (x : Reg) (s : State),
    (indexBase s + x.val ≤ 0xFFF → ∃ t, exec (.loadRegs x) s = .next t ∧
      OnlyRegs (fun r => r ≤ x) s t ∧ ∀ r : Reg, r ≤ x → t.getV r = s.byteAt (indexBase s + r.val)) ∧
    (0xFFF < indexBase s + x.val → ∃ t, exec (.loadRegs x) s = .next t ∧
      Raised s t (s.pc - 2) .outOfBounds (encode (.loadRegs x)) (max (indexBase s) 0x1000))

/-- What FX55 stores, FX65 loads back, from any state with the same memory, parameters and I. -/
def Obligations.StoreThenLoadRestoresRegisters : Prop :=
  ∀ (x : Reg) (s t u : State), 0x50 ≤ indexBase s → indexBase s + x.val ≤ 0xFFF →
    exec (.storeRegs x) s = .next t → u.mem = t.mem → u.params = t.params → u.i = t.i →
    ∃ w, exec (.loadRegs x) u = .next w ∧ (∀ r : Reg, r ≤ x → w.getV r = s.getV r) ∧
      ∀ r : Reg, x < r → w.getV r = u.getV r

/-- R271: FX0A stores the lowest pressed key in VX; with no key pressed it only takes pc back to the instruction. -/
def Obligations.KeyWait : Prop :=
  ∀ (x : Reg) (s : State),
    (∀ k : Fin 16, s.keys[k.val] = true → (∀ j : Fin 16, j < k → s.keys[j.val] = false) →
      ∃ t, exec (.ldVxK x) s = .next t ∧ OnlyRegs (fun r => r = x) s t ∧ (t.getV x).toNat = k.val) ∧
    ((∀ k : Fin 16, s.keys[k.val] = false) →
      ∃ t, exec (.ldVxK x) s = .next t ∧ t.pc = s.pc - 2 ∧ { t with pc := s.pc } = s)

/-- R272: a stalled step is a whole step: pc stays, the timers tick, and nothing else of the block changes but sound_stop
([derived] in R272). -/
def Obligations.StalledStepTicks : Prop :=
  ∀ (x : Reg) (s : State), s.Ready → s.Holds (.ldVxK x) → (∀ k : Fin 16, s.keys[k.val] = false) →
    ∃ t, step s = .next t ∧ t.dt.toNat = s.dt.toNat - 1 ∧ t.st.toNat = s.st.toNat - 1 ∧
      { t with
          dt := s.dt, st := s.st, soundStop := s.soundStop, loadOpen := s.loadOpen,
          rndIndex := s.rndIndex } = s

/-! ### The loader (70_reset_and_hazards.md) -/

/-- R352: while the loader's window is open, a ROM of at most 3584 bytes is copied verbatim to 0x200 upwards and the rest of
memory keeps its contents; a longer one sets load_error, changes no memory, and no step may follow. A load outside the
window has no move (decision D26; loadOpen is the model's own, log entry 6; the
refused step is log entry 12). -/
def Obligations.RomLoad : Prop :=
  ∀ (rom : List Byte) (s : State),
    (s.loadOpen = false → hostStep (.load rom) s = .refused .loadOutsideBoot) ∧
    (s.loadOpen = true → rom.length ≤ 3584 → ∃ t, hostStep (.load rom) s = .next t ∧
      (∀ k (h : k < rom.length), t.byteAt (0x200 + k) = rom[k]) ∧
      (∀ a, ¬ (0x200 ≤ a ∧ a < 0x200 + rom.length) → t.byteAt a = s.byteAt a) ∧
      t.loadError = false ∧ t.loadOpen = false ∧
      { t with mem := s.mem, loadError := s.loadError, loadOpen := s.loadOpen } = s) ∧
    (s.loadOpen = true → 3584 < rom.length → ∃ t, hostStep (.load rom) s = .next t ∧
      t.loadError = true ∧ t.loadOpen = false ∧
      { t with loadError := s.loadError, loadOpen := s.loadOpen } = s ∧
      (s.halted = false → step t = .refused .stepAfterLoadError))
end

