-- ==== Sys2Proof/Laws/Decode.lean ====
section
/-! SUPPORT. Laws/Decode.lean: words as numbers: what each format encodes, the fields of a word, and its bytes (R112, R113,
R82). Everything about fields then follows by arithmetic. -/

namespace Sys2Proof

/-! ### Encoded words as numbers -/

/-- Joining two bit strings puts the first one high. -/
theorem append_toNat {m n : Nat} (a : BitVec m) (b : BitVec n) : (a ++ b).toNat = a.toNat * 2 ^ n + b.toNat := by
  rw [BitVec.toNat_append, ← Nat.shiftLeft_add_eq_or_of_lt b.isLt, Nat.shiftLeft_eq]

theorem encNNN_toNat (c : Nibble) (nnn : Addr) : (encNNN c nnn).toNat = c.toNat * 4096 + nnn.toNat :=
  append_toNat c nnn

theorem regNibble_toNat (x : Reg) : (regNibble x).toNat = x.val := rfl

theorem encXNN_toNat (c : Nibble) (x : Reg) (nn : Byte) :
    (encXNN c x nn).toNat = c.toNat * 4096 + x.val * 256 + nn.toNat := by
  have e : (encXNN c x nn).toNat = ((c ++ regNibble x) ++ nn).toNat := rfl
  rw [e, append_toNat, append_toNat, regNibble_toNat]
  omega

theorem encXYN_toNat (c : Nibble) (x y : Reg) (n : Nibble) :
    (encXYN c x y n).toNat = c.toNat * 4096 + x.val * 256 + y.val * 16 + n.toNat := by
  have e : (encXYN c x y n).toNat = (((c ++ regNibble x) ++ regNibble y) ++ n).toNat := rfl
  rw [e, append_toNat, append_toNat, append_toNat, regNibble_toNat, regNibble_toNat]
  omega

/-! ### Fields of a word as numbers -/

theorem opClass_toNat (op : Word) : (opClass op).toNat = op.toNat / 4096 := by
  have := op.isLt
  simp only [opClass, BitVec.extractLsb'_toNat, Nat.shiftRight_eq_div_pow]
  omega

theorem opX_val (op : Word) : (opX op).val = op.toNat / 256 % 16 := by
  show (op.extractLsb' 8 4).toNat = _
  simp only [BitVec.extractLsb'_toNat, Nat.shiftRight_eq_div_pow]

theorem opY_val (op : Word) : (opY op).val = op.toNat / 16 % 16 := by
  show (op.extractLsb' 4 4).toNat = _
  simp only [BitVec.extractLsb'_toNat, Nat.shiftRight_eq_div_pow]

theorem opN_toNat (op : Word) : (opN op).toNat = op.toNat % 16 := by
  simp [opN]

theorem opNN_toNat (op : Word) : (opNN op).toNat = op.toNat % 256 := by
  simp [opNN]

theorem opNNN_toNat (op : Word) : (opNNN op).toNat = op.toNat % 4096 := by
  simp [opNNN]

/-! ### Bytes -/

/-- Two bytes joined, as a number: the first is the high one (R82). -/
theorem joinBytes_toNat (hi lo : Byte) : (joinBytes hi lo).toNat = 256 * hi.toNat + lo.toNat :=
  (append_toNat hi lo).trans (by omega)

/-- A word is its two bytes joined. -/
theorem joinBytes_highByte_lowByte (op : Word) : joinBytes (highByte op) (lowByte op) = op := by
  apply BitVec.eq_of_toNat_eq
  have := op.isLt
  rw [joinBytes_toNat]
  simp only [highByte, lowByte, BitVec.extractLsb'_toNat, Nat.shiftRight_eq_div_pow]
  omega

end Sys2Proof
end

