-- ==== Sys2Proof/Laws/Memory.lean ====
section
/-! SUPPORT. Laws/Memory.lean: read after write, frame, and the canonical form, for every memory operation. The read and
frame laws hold for every list, canonical or not. -/

namespace Sys2Proof.Machine

variable {font : Vector Byte 80}

/-! ### Reading -/

/-- Removing the entry of an address makes it read as unlisted, and leaves every other address alone. -/
theorem Memory.get_erase (m : Memory) (a b : Nat) :
    (Memory.erase a m).get font b = if b = a then initialByte font a else m.get font b := by
  induction m with
  | nil => by_cases h : b = a <;> simp [Memory.erase, Memory.get, h]
  | cons c m ih =>
    simp only [Memory.erase, List.filter_cons] at ih ⊢
    by_cases hc : c.1 = a
    · simp only [hc, bne_self_eq_false, Bool.false_eq_true, if_false, ih, Memory.get]
      by_cases h : b = a <;> simp [h]
    · simp only [bne_iff_ne, ne_eq, hc, not_false_eq_true, if_true, Memory.get, ih]
      by_cases h : b = a
      · subst h; simp [Ne.symm hc]
      · simp [h]

/-- Inserting an entry for an address that has none. -/
theorem Memory.get_insert {m : Memory} {a : Nat} (h : ∀ c ∈ m, c.1 ≠ a) (w : Byte) (b : Nat) :
    (Memory.insert a w m).get font b = if b = a then w else m.get font b := by
  induction m with
  | nil => simp [Memory.insert, Memory.get]
  | cons c m ih =>
    have hc : c.1 ≠ a := h c (by simp)
    simp only [Memory.insert]
    split
    · simp [Memory.get]
    · simp only [Memory.get, ih fun d hd => h d (by simp [hd])]
      by_cases hb : b = c.1
      · simp [hb, hc]
      · simp [hb]

/-- No entry for an erased address is left. -/
theorem Memory.mem_erase {m : Memory} {a : Nat} {c : Host.Cell} :
    c ∈ Memory.erase a m ↔ c ∈ m ∧ c.1 ≠ a := by
  simp [Memory.erase]

/-- Read after write: the address written holds the value, every other address what it held. -/
theorem Memory.get_put (m : Memory) (a b : Nat) (w : Byte) :
    (Memory.put font a w m).get font b = if b = a then w else m.get font b := by
  unfold Memory.put
  split
  · next h => rw [Memory.get_erase, h]
  · rw [Memory.get_insert (fun c hc => (Memory.mem_erase.mp hc).2), Memory.get_erase]
    by_cases h : b = a <;> simp [h]

/-- Read after a block write: inside the block its bytes, outside what was there. -/
theorem Memory.get_putBytes (ws : List Byte) (m : Memory) (a b : Nat) :
    (Memory.putBytes font a ws m).get font b =
      if h : a ≤ b ∧ b < a + ws.length then ws[b - a]'(by omega) else m.get font b := by
  induction ws generalizing a m with
  | nil => simp [Memory.putBytes]
  | cons w ws ih =>
    simp only [Memory.putBytes, ih, Memory.get_put, List.length_cons]
    by_cases hab : b = a
    · subst hab; simp
    · by_cases h : a + 1 ≤ b ∧ b < a + 1 + ws.length
      · have h' : a ≤ b ∧ b < a + (ws.length + 1) := by omega
        have hk : b - a = (b - (a + 1)) + 1 := by omega
        simp [h, h', hk]
      · have h' : ¬ (a ≤ b ∧ b < a + (ws.length + 1)) := by omega
        rw [dif_neg h, dif_neg h', if_neg hab]

/-! ### The canonical form -/

/-- The empty memory is canonical. -/
theorem Memory.wf_nil : Memory.wf font [] := by simp [Memory.wf]

/-- Erasing keeps the canonical form. -/
theorem Memory.wf_erase {m : Memory} (h : Memory.wf font m) (a : Nat) : Memory.wf font (Memory.erase a m) :=
  ⟨h.1.filter _, fun c hc => h.2 c (Memory.mem_erase.mp hc).1⟩

/-- What an insertion holds. -/
theorem Memory.mem_insert {m : Memory} {a : Nat} {w : Byte} {c : Host.Cell} :
    c ∈ Memory.insert a w m ↔ c = (a, w) ∨ c ∈ m := by
  induction m with
  | nil => simp [Memory.insert]
  | cons d m ih =>
    simp only [Memory.insert]
    split
    · simp
    · simp only [List.mem_cons, ih]; tauto

/-- Inserting an entry keeps the order. -/
theorem Memory.sorted_insert {m : Memory} {a : Nat} {w : Byte} (hs : m.Pairwise fun c d => c.1 < d.1)
    (ha : ∀ c ∈ m, c.1 ≠ a) : (Memory.insert a w m).Pairwise fun c d => c.1 < d.1 := by
  induction m with
  | nil => simp [Memory.insert]
  | cons d m ih =>
    obtain ⟨hd, hm⟩ := List.pairwise_cons.mp hs
    have hda : d.1 ≠ a := ha d (by simp)
    simp only [Memory.insert]
    split
    · next hlt =>
      refine List.pairwise_cons.mpr ⟨fun c hc => ?_, hs⟩
      rcases List.mem_cons.mp hc with rfl | hc
      · exact hlt
      · exact Nat.lt_trans hlt (hd c hc)
    · next hge =>
      refine List.pairwise_cons.mpr ⟨fun c hc => ?_, ih hm fun c hc => ha c (by simp [hc])⟩
      rcases Memory.mem_insert.mp hc with rfl | hc
      · show d.1 < a
        omega
      · exact hd c hc

/-- Writing a byte inside memory keeps the canonical form. -/
theorem Memory.wf_put {m : Memory} (h : Memory.wf font m) {a : Nat} (ha : a < 4096) (w : Byte) :
    Memory.wf font (Memory.put font a w m) := by
  unfold Memory.put
  split
  · exact Memory.wf_erase h a
  · next hw =>
    have he := Memory.wf_erase h a
    refine ⟨Memory.sorted_insert he.1 fun c hc => (Memory.mem_erase.mp hc).2, fun c hc => ?_⟩
    rcases Memory.mem_insert.mp hc with rfl | hc
    · exact ⟨ha, hw⟩
    · exact he.2 c hc

/-- Writing a block inside memory keeps the canonical form. -/
theorem Memory.wf_putBytes {ws : List Byte} {m : Memory} {a : Nat} (h : Memory.wf font m)
    (ha : a + ws.length ≤ 4096) : Memory.wf font (Memory.putBytes font a ws m) := by
  induction ws generalizing a m with
  | nil => exact h
  | cons w ws ih =>
    simp only [List.length_cons] at ha
    exact ih (Memory.wf_put h (by omega) w) (by omega)

/-- What a byte write can list: the address written, and what was listed. -/
theorem Memory.addr_of_mem_put {m : Memory} {a : Nat} {w : Byte} {c : Host.Cell}
    (h : c ∈ Memory.put font a w m) : c.1 = a ∨ c ∈ m := by
  unfold Memory.put at h
  split at h
  · exact .inr (Memory.mem_erase.mp h).1
  · rcases Memory.mem_insert.mp h with rfl | h
    · exact .inl rfl
    · exact .inr (Memory.mem_erase.mp h).1

/-- What a block write can list: addresses of the block, and what was listed. -/
theorem Memory.addr_of_mem_putBytes {ws : List Byte} {m : Memory} {a : Nat} {c : Host.Cell}
    (h : c ∈ Memory.putBytes font a ws m) : (a ≤ c.1 ∧ c.1 < a + ws.length) ∨ c ∈ m := by
  induction ws generalizing a m with
  | nil => exact .inr h
  | cons w ws ih =>
    simp only [List.length_cons]
    rcases ih h with h | h
    · exact .inl (by omega)
    · rcases Memory.addr_of_mem_put h with h | h
      · exact .inl (by omega)
      · exact .inr h

/-- An address with no entry reads its contents after reset. -/
theorem Memory.get_unlisted {m : Memory} {a : Nat} (h : ∀ c ∈ m, c.1 ≠ a) :
    m.get font a = initialByte font a := by
  induction m with
  | nil => rfl
  | cons c m ih =>
    have hc : a ≠ c.1 := fun e => h c (by simp) e.symm
    simp [Memory.get, hc, ih fun d hd => h d (by simp [hd])]

end Sys2Proof.Machine
end

