-- ==== Sys2Proof/Laws/State.lean ====
section
/-! SUPPORT. Laws/State.lean: one lemma per field per update, true by rfl, so that no later proof unfolds a record update. -/

namespace Sys2Proof.Machine

/-! ### setV -/

@[simp] theorem State.setV_v (s : State) (r : Reg) (b : Byte) : (s.setV r b).v = s.v.set r.val b := rfl
@[simp] theorem State.setV_i (s : State) (r : Reg) (b : Byte) : (s.setV r b).i = s.i := rfl
@[simp] theorem State.setV_pc (s : State) (r : Reg) (b : Byte) : (s.setV r b).pc = s.pc := rfl
@[simp] theorem State.setV_sp (s : State) (r : Reg) (b : Byte) : (s.setV r b).sp = s.sp := rfl
@[simp] theorem State.setV_stack (s : State) (r : Reg) (b : Byte) : (s.setV r b).stack = s.stack := rfl
@[simp] theorem State.setV_dt (s : State) (r : Reg) (b : Byte) : (s.setV r b).dt = s.dt := rfl
@[simp] theorem State.setV_st (s : State) (r : Reg) (b : Byte) : (s.setV r b).st = s.st := rfl
@[simp] theorem State.setV_display (s : State) (r : Reg) (b : Byte) : (s.setV r b).display = s.display := rfl
@[simp] theorem State.setV_keys (s : State) (r : Reg) (b : Byte) : (s.setV r b).keys = s.keys := rfl
@[simp] theorem State.setV_mem (s : State) (r : Reg) (b : Byte) : (s.setV r b).mem = s.mem := rfl
@[simp] theorem State.setV_halted (s : State) (r : Reg) (b : Byte) : (s.setV r b).halted = s.halted := rfl
@[simp] theorem State.setV_err (s : State) (r : Reg) (b : Byte) : (s.setV r b).err = s.err := rfl
@[simp] theorem State.setV_soundStop (s : State) (r : Reg) (b : Byte) : (s.setV r b).soundStop = s.soundStop := rfl
@[simp] theorem State.setV_loadError (s : State) (r : Reg) (b : Byte) : (s.setV r b).loadError = s.loadError := rfl
@[simp] theorem State.setV_loadOpen (s : State) (r : Reg) (b : Byte) : (s.setV r b).loadOpen = s.loadOpen := rfl
@[simp] theorem State.setV_rndIndex (s : State) (r : Reg) (b : Byte) : (s.setV r b).rndIndex = s.rndIndex := rfl
@[simp] theorem State.setV_params (s : State) (r : Reg) (b : Byte) : (s.setV r b).params = s.params := rfl

/-! ### setI -/

@[simp] theorem State.setI_v (s : State) (w : Word) : (s.setI w).v = s.v := rfl
@[simp] theorem State.setI_i (s : State) (w : Word) : (s.setI w).i = w := rfl
@[simp] theorem State.setI_pc (s : State) (w : Word) : (s.setI w).pc = s.pc := rfl
@[simp] theorem State.setI_sp (s : State) (w : Word) : (s.setI w).sp = s.sp := rfl
@[simp] theorem State.setI_stack (s : State) (w : Word) : (s.setI w).stack = s.stack := rfl
@[simp] theorem State.setI_dt (s : State) (w : Word) : (s.setI w).dt = s.dt := rfl
@[simp] theorem State.setI_st (s : State) (w : Word) : (s.setI w).st = s.st := rfl
@[simp] theorem State.setI_display (s : State) (w : Word) : (s.setI w).display = s.display := rfl
@[simp] theorem State.setI_keys (s : State) (w : Word) : (s.setI w).keys = s.keys := rfl
@[simp] theorem State.setI_mem (s : State) (w : Word) : (s.setI w).mem = s.mem := rfl
@[simp] theorem State.setI_halted (s : State) (w : Word) : (s.setI w).halted = s.halted := rfl
@[simp] theorem State.setI_err (s : State) (w : Word) : (s.setI w).err = s.err := rfl
@[simp] theorem State.setI_soundStop (s : State) (w : Word) : (s.setI w).soundStop = s.soundStop := rfl
@[simp] theorem State.setI_loadError (s : State) (w : Word) : (s.setI w).loadError = s.loadError := rfl
@[simp] theorem State.setI_loadOpen (s : State) (w : Word) : (s.setI w).loadOpen = s.loadOpen := rfl
@[simp] theorem State.setI_rndIndex (s : State) (w : Word) : (s.setI w).rndIndex = s.rndIndex := rfl
@[simp] theorem State.setI_params (s : State) (w : Word) : (s.setI w).params = s.params := rfl

/-! ### setPc -/

@[simp] theorem State.setPc_v (s : State) (w : Word) : (s.setPc w).v = s.v := rfl
@[simp] theorem State.setPc_i (s : State) (w : Word) : (s.setPc w).i = s.i := rfl
@[simp] theorem State.setPc_pc (s : State) (w : Word) : (s.setPc w).pc = w := rfl
@[simp] theorem State.setPc_sp (s : State) (w : Word) : (s.setPc w).sp = s.sp := rfl
@[simp] theorem State.setPc_stack (s : State) (w : Word) : (s.setPc w).stack = s.stack := rfl
@[simp] theorem State.setPc_dt (s : State) (w : Word) : (s.setPc w).dt = s.dt := rfl
@[simp] theorem State.setPc_st (s : State) (w : Word) : (s.setPc w).st = s.st := rfl
@[simp] theorem State.setPc_display (s : State) (w : Word) : (s.setPc w).display = s.display := rfl
@[simp] theorem State.setPc_keys (s : State) (w : Word) : (s.setPc w).keys = s.keys := rfl
@[simp] theorem State.setPc_mem (s : State) (w : Word) : (s.setPc w).mem = s.mem := rfl
@[simp] theorem State.setPc_halted (s : State) (w : Word) : (s.setPc w).halted = s.halted := rfl
@[simp] theorem State.setPc_err (s : State) (w : Word) : (s.setPc w).err = s.err := rfl
@[simp] theorem State.setPc_soundStop (s : State) (w : Word) : (s.setPc w).soundStop = s.soundStop := rfl
@[simp] theorem State.setPc_loadError (s : State) (w : Word) : (s.setPc w).loadError = s.loadError := rfl
@[simp] theorem State.setPc_loadOpen (s : State) (w : Word) : (s.setPc w).loadOpen = s.loadOpen := rfl
@[simp] theorem State.setPc_rndIndex (s : State) (w : Word) : (s.setPc w).rndIndex = s.rndIndex := rfl
@[simp] theorem State.setPc_params (s : State) (w : Word) : (s.setPc w).params = s.params := rfl

/-! ### setDt -/

@[simp] theorem State.setDt_v (s : State) (b : Byte) : (s.setDt b).v = s.v := rfl
@[simp] theorem State.setDt_i (s : State) (b : Byte) : (s.setDt b).i = s.i := rfl
@[simp] theorem State.setDt_pc (s : State) (b : Byte) : (s.setDt b).pc = s.pc := rfl
@[simp] theorem State.setDt_sp (s : State) (b : Byte) : (s.setDt b).sp = s.sp := rfl
@[simp] theorem State.setDt_stack (s : State) (b : Byte) : (s.setDt b).stack = s.stack := rfl
@[simp] theorem State.setDt_dt (s : State) (b : Byte) : (s.setDt b).dt = b := rfl
@[simp] theorem State.setDt_st (s : State) (b : Byte) : (s.setDt b).st = s.st := rfl
@[simp] theorem State.setDt_display (s : State) (b : Byte) : (s.setDt b).display = s.display := rfl
@[simp] theorem State.setDt_keys (s : State) (b : Byte) : (s.setDt b).keys = s.keys := rfl
@[simp] theorem State.setDt_mem (s : State) (b : Byte) : (s.setDt b).mem = s.mem := rfl
@[simp] theorem State.setDt_halted (s : State) (b : Byte) : (s.setDt b).halted = s.halted := rfl
@[simp] theorem State.setDt_err (s : State) (b : Byte) : (s.setDt b).err = s.err := rfl
@[simp] theorem State.setDt_soundStop (s : State) (b : Byte) : (s.setDt b).soundStop = s.soundStop := rfl
@[simp] theorem State.setDt_loadError (s : State) (b : Byte) : (s.setDt b).loadError = s.loadError := rfl
@[simp] theorem State.setDt_loadOpen (s : State) (b : Byte) : (s.setDt b).loadOpen = s.loadOpen := rfl
@[simp] theorem State.setDt_rndIndex (s : State) (b : Byte) : (s.setDt b).rndIndex = s.rndIndex := rfl
@[simp] theorem State.setDt_params (s : State) (b : Byte) : (s.setDt b).params = s.params := rfl

/-! ### setSt -/

@[simp] theorem State.setSt_v (s : State) (b : Byte) : (s.setSt b).v = s.v := rfl
@[simp] theorem State.setSt_i (s : State) (b : Byte) : (s.setSt b).i = s.i := rfl
@[simp] theorem State.setSt_pc (s : State) (b : Byte) : (s.setSt b).pc = s.pc := rfl
@[simp] theorem State.setSt_sp (s : State) (b : Byte) : (s.setSt b).sp = s.sp := rfl
@[simp] theorem State.setSt_stack (s : State) (b : Byte) : (s.setSt b).stack = s.stack := rfl
@[simp] theorem State.setSt_dt (s : State) (b : Byte) : (s.setSt b).dt = s.dt := rfl
@[simp] theorem State.setSt_st (s : State) (b : Byte) : (s.setSt b).st = b := rfl
@[simp] theorem State.setSt_display (s : State) (b : Byte) : (s.setSt b).display = s.display := rfl
@[simp] theorem State.setSt_keys (s : State) (b : Byte) : (s.setSt b).keys = s.keys := rfl
@[simp] theorem State.setSt_mem (s : State) (b : Byte) : (s.setSt b).mem = s.mem := rfl
@[simp] theorem State.setSt_halted (s : State) (b : Byte) : (s.setSt b).halted = s.halted := rfl
@[simp] theorem State.setSt_err (s : State) (b : Byte) : (s.setSt b).err = s.err := rfl
@[simp] theorem State.setSt_soundStop (s : State) (b : Byte) : (s.setSt b).soundStop = s.soundStop := rfl
@[simp] theorem State.setSt_loadError (s : State) (b : Byte) : (s.setSt b).loadError = s.loadError := rfl
@[simp] theorem State.setSt_loadOpen (s : State) (b : Byte) : (s.setSt b).loadOpen = s.loadOpen := rfl
@[simp] theorem State.setSt_rndIndex (s : State) (b : Byte) : (s.setSt b).rndIndex = s.rndIndex := rfl
@[simp] theorem State.setSt_params (s : State) (b : Byte) : (s.setSt b).params = s.params := rfl

/-! ### setDisplay -/

@[simp] theorem State.setDisplay_v (s : State) (d : Display) : (s.setDisplay d).v = s.v := rfl
@[simp] theorem State.setDisplay_i (s : State) (d : Display) : (s.setDisplay d).i = s.i := rfl
@[simp] theorem State.setDisplay_pc (s : State) (d : Display) : (s.setDisplay d).pc = s.pc := rfl
@[simp] theorem State.setDisplay_sp (s : State) (d : Display) : (s.setDisplay d).sp = s.sp := rfl
@[simp] theorem State.setDisplay_stack (s : State) (d : Display) : (s.setDisplay d).stack = s.stack := rfl
@[simp] theorem State.setDisplay_dt (s : State) (d : Display) : (s.setDisplay d).dt = s.dt := rfl
@[simp] theorem State.setDisplay_st (s : State) (d : Display) : (s.setDisplay d).st = s.st := rfl
@[simp] theorem State.setDisplay_display (s : State) (d : Display) : (s.setDisplay d).display = d := rfl
@[simp] theorem State.setDisplay_keys (s : State) (d : Display) : (s.setDisplay d).keys = s.keys := rfl
@[simp] theorem State.setDisplay_mem (s : State) (d : Display) : (s.setDisplay d).mem = s.mem := rfl
@[simp] theorem State.setDisplay_halted (s : State) (d : Display) : (s.setDisplay d).halted = s.halted := rfl
@[simp] theorem State.setDisplay_err (s : State) (d : Display) : (s.setDisplay d).err = s.err := rfl
@[simp] theorem State.setDisplay_soundStop (s : State) (d : Display) : (s.setDisplay d).soundStop = s.soundStop := rfl
@[simp] theorem State.setDisplay_loadError (s : State) (d : Display) : (s.setDisplay d).loadError = s.loadError := rfl
@[simp] theorem State.setDisplay_loadOpen (s : State) (d : Display) : (s.setDisplay d).loadOpen = s.loadOpen := rfl
@[simp] theorem State.setDisplay_rndIndex (s : State) (d : Display) : (s.setDisplay d).rndIndex = s.rndIndex := rfl
@[simp] theorem State.setDisplay_params (s : State) (d : Display) : (s.setDisplay d).params = s.params := rfl

/-! ### setMem -/

@[simp] theorem State.setMem_v (s : State) (m : Memory) : (s.setMem m).v = s.v := rfl
@[simp] theorem State.setMem_i (s : State) (m : Memory) : (s.setMem m).i = s.i := rfl
@[simp] theorem State.setMem_pc (s : State) (m : Memory) : (s.setMem m).pc = s.pc := rfl
@[simp] theorem State.setMem_sp (s : State) (m : Memory) : (s.setMem m).sp = s.sp := rfl
@[simp] theorem State.setMem_stack (s : State) (m : Memory) : (s.setMem m).stack = s.stack := rfl
@[simp] theorem State.setMem_dt (s : State) (m : Memory) : (s.setMem m).dt = s.dt := rfl
@[simp] theorem State.setMem_st (s : State) (m : Memory) : (s.setMem m).st = s.st := rfl
@[simp] theorem State.setMem_display (s : State) (m : Memory) : (s.setMem m).display = s.display := rfl
@[simp] theorem State.setMem_keys (s : State) (m : Memory) : (s.setMem m).keys = s.keys := rfl
@[simp] theorem State.setMem_mem (s : State) (m : Memory) : (s.setMem m).mem = m := rfl
@[simp] theorem State.setMem_halted (s : State) (m : Memory) : (s.setMem m).halted = s.halted := rfl
@[simp] theorem State.setMem_err (s : State) (m : Memory) : (s.setMem m).err = s.err := rfl
@[simp] theorem State.setMem_soundStop (s : State) (m : Memory) : (s.setMem m).soundStop = s.soundStop := rfl
@[simp] theorem State.setMem_loadError (s : State) (m : Memory) : (s.setMem m).loadError = s.loadError := rfl
@[simp] theorem State.setMem_loadOpen (s : State) (m : Memory) : (s.setMem m).loadOpen = s.loadOpen := rfl
@[simp] theorem State.setMem_rndIndex (s : State) (m : Memory) : (s.setMem m).rndIndex = s.rndIndex := rfl
@[simp] theorem State.setMem_params (s : State) (m : Memory) : (s.setMem m).params = s.params := rfl

/-! ### setStack -/

@[simp] theorem State.setStack_v (s : State) (p : Fin 17) (t : Vector Word 16) : (s.setStack p t).v = s.v := rfl
@[simp] theorem State.setStack_i (s : State) (p : Fin 17) (t : Vector Word 16) : (s.setStack p t).i = s.i := rfl
@[simp] theorem State.setStack_pc (s : State) (p : Fin 17) (t : Vector Word 16) : (s.setStack p t).pc = s.pc := rfl
@[simp] theorem State.setStack_sp (s : State) (p : Fin 17) (t : Vector Word 16) : (s.setStack p t).sp = p := rfl
@[simp] theorem State.setStack_stack (s : State) (p : Fin 17) (t : Vector Word 16) : (s.setStack p t).stack = t := rfl
@[simp] theorem State.setStack_dt (s : State) (p : Fin 17) (t : Vector Word 16) : (s.setStack p t).dt = s.dt := rfl
@[simp] theorem State.setStack_st (s : State) (p : Fin 17) (t : Vector Word 16) : (s.setStack p t).st = s.st := rfl
@[simp] theorem State.setStack_display (s : State) (p : Fin 17) (t : Vector Word 16) : (s.setStack p t).display = s.display := rfl
@[simp] theorem State.setStack_keys (s : State) (p : Fin 17) (t : Vector Word 16) : (s.setStack p t).keys = s.keys := rfl
@[simp] theorem State.setStack_mem (s : State) (p : Fin 17) (t : Vector Word 16) : (s.setStack p t).mem = s.mem := rfl
@[simp] theorem State.setStack_halted (s : State) (p : Fin 17) (t : Vector Word 16) : (s.setStack p t).halted = s.halted := rfl
@[simp] theorem State.setStack_err (s : State) (p : Fin 17) (t : Vector Word 16) : (s.setStack p t).err = s.err := rfl
@[simp] theorem State.setStack_soundStop (s : State) (p : Fin 17) (t : Vector Word 16) : (s.setStack p t).soundStop = s.soundStop := rfl
@[simp] theorem State.setStack_loadError (s : State) (p : Fin 17) (t : Vector Word 16) : (s.setStack p t).loadError = s.loadError := rfl
@[simp] theorem State.setStack_loadOpen (s : State) (p : Fin 17) (t : Vector Word 16) : (s.setStack p t).loadOpen = s.loadOpen := rfl
@[simp] theorem State.setStack_rndIndex (s : State) (p : Fin 17) (t : Vector Word 16) : (s.setStack p t).rndIndex = s.rndIndex := rfl
@[simp] theorem State.setStack_params (s : State) (p : Fin 17) (t : Vector Word 16) : (s.setStack p t).params = s.params := rfl

/-! ### advance -/

@[simp] theorem State.advance_v (s : State) : (s.advance).v = s.v := rfl
@[simp] theorem State.advance_i (s : State) : (s.advance).i = s.i := rfl
@[simp] theorem State.advance_pc (s : State) : (s.advance).pc = s.pc + 2 := rfl
@[simp] theorem State.advance_sp (s : State) : (s.advance).sp = s.sp := rfl
@[simp] theorem State.advance_stack (s : State) : (s.advance).stack = s.stack := rfl
@[simp] theorem State.advance_dt (s : State) : (s.advance).dt = s.dt := rfl
@[simp] theorem State.advance_st (s : State) : (s.advance).st = s.st := rfl
@[simp] theorem State.advance_display (s : State) : (s.advance).display = s.display := rfl
@[simp] theorem State.advance_keys (s : State) : (s.advance).keys = s.keys := rfl
@[simp] theorem State.advance_mem (s : State) : (s.advance).mem = s.mem := rfl
@[simp] theorem State.advance_halted (s : State) : (s.advance).halted = s.halted := rfl
@[simp] theorem State.advance_err (s : State) : (s.advance).err = s.err := rfl
@[simp] theorem State.advance_soundStop (s : State) : (s.advance).soundStop = s.soundStop := rfl
@[simp] theorem State.advance_loadError (s : State) : (s.advance).loadError = s.loadError := rfl
@[simp] theorem State.advance_loadOpen (s : State) : (s.advance).loadOpen = s.loadOpen := rfl
@[simp] theorem State.advance_rndIndex (s : State) : (s.advance).rndIndex = s.rndIndex := rfl
@[simp] theorem State.advance_params (s : State) : (s.advance).params = s.params := rfl

/-! ### rewind -/

@[simp] theorem State.rewind_v (s : State) : (s.rewind).v = s.v := rfl
@[simp] theorem State.rewind_i (s : State) : (s.rewind).i = s.i := rfl
@[simp] theorem State.rewind_pc (s : State) : (s.rewind).pc = s.pc - 2 := rfl
@[simp] theorem State.rewind_sp (s : State) : (s.rewind).sp = s.sp := rfl
@[simp] theorem State.rewind_stack (s : State) : (s.rewind).stack = s.stack := rfl
@[simp] theorem State.rewind_dt (s : State) : (s.rewind).dt = s.dt := rfl
@[simp] theorem State.rewind_st (s : State) : (s.rewind).st = s.st := rfl
@[simp] theorem State.rewind_display (s : State) : (s.rewind).display = s.display := rfl
@[simp] theorem State.rewind_keys (s : State) : (s.rewind).keys = s.keys := rfl
@[simp] theorem State.rewind_mem (s : State) : (s.rewind).mem = s.mem := rfl
@[simp] theorem State.rewind_halted (s : State) : (s.rewind).halted = s.halted := rfl
@[simp] theorem State.rewind_err (s : State) : (s.rewind).err = s.err := rfl
@[simp] theorem State.rewind_soundStop (s : State) : (s.rewind).soundStop = s.soundStop := rfl
@[simp] theorem State.rewind_loadError (s : State) : (s.rewind).loadError = s.loadError := rfl
@[simp] theorem State.rewind_loadOpen (s : State) : (s.rewind).loadOpen = s.loadOpen := rfl
@[simp] theorem State.rewind_rndIndex (s : State) : (s.rewind).rndIndex = s.rndIndex := rfl
@[simp] theorem State.rewind_params (s : State) : (s.rewind).params = s.params := rfl

/-! ### The fatal-error entry and the tick -/

@[simp] theorem takeFatal_v (s : State) (op : Word) (r : Raise) :
    (takeFatal s op r).v = s.v := rfl
@[simp] theorem takeFatal_i (s : State) (op : Word) (r : Raise) :
    (takeFatal s op r).i = s.i := rfl
@[simp] theorem takeFatal_pc (s : State) (op : Word) (r : Raise) :
    (takeFatal s op r).pc = s.pc := rfl
@[simp] theorem takeFatal_sp (s : State) (op : Word) (r : Raise) :
    (takeFatal s op r).sp = s.sp := rfl
@[simp] theorem takeFatal_stack (s : State) (op : Word) (r : Raise) :
    (takeFatal s op r).stack = s.stack := rfl
@[simp] theorem takeFatal_dt (s : State) (op : Word) (r : Raise) :
    (takeFatal s op r).dt = s.dt := rfl
@[simp] theorem takeFatal_st (s : State) (op : Word) (r : Raise) :
    (takeFatal s op r).st = s.st := rfl
@[simp] theorem takeFatal_display (s : State) (op : Word) (r : Raise) :
    (takeFatal s op r).display = s.display := rfl
@[simp] theorem takeFatal_keys (s : State) (op : Word) (r : Raise) :
    (takeFatal s op r).keys = s.keys := rfl
@[simp] theorem takeFatal_mem (s : State) (op : Word) (r : Raise) :
    (takeFatal s op r).mem = s.mem := rfl
@[simp] theorem takeFatal_halted (s : State) (op : Word) (r : Raise) :
    (takeFatal s op r).halted = true := rfl
@[simp] theorem takeFatal_err (s : State) (op : Word) (r : Raise) :
    (takeFatal s op r).err = { kind := r.kind, opcode := op, addr := s.pc, info := r.info } := rfl
@[simp] theorem takeFatal_soundStop (s : State) (op : Word) (r : Raise) :
    (takeFatal s op r).soundStop = false := rfl
@[simp] theorem takeFatal_loadError (s : State) (op : Word) (r : Raise) :
    (takeFatal s op r).loadError = s.loadError := rfl
@[simp] theorem takeFatal_loadOpen (s : State) (op : Word) (r : Raise) :
    (takeFatal s op r).loadOpen = false := rfl
@[simp] theorem takeFatal_rndIndex (s : State) (op : Word) (r : Raise) :
    (takeFatal s op r).rndIndex = s.rndIndex := rfl
@[simp] theorem takeFatal_params (s : State) (op : Word) (r : Raise) :
    (takeFatal s op r).params = s.params := rfl
@[simp] theorem tick_v (s : State) : (tick s).v = s.v := rfl
@[simp] theorem tick_i (s : State) : (tick s).i = s.i := rfl
@[simp] theorem tick_pc (s : State) : (tick s).pc = s.pc := rfl
@[simp] theorem tick_sp (s : State) : (tick s).sp = s.sp := rfl
@[simp] theorem tick_stack (s : State) : (tick s).stack = s.stack := rfl
@[simp] theorem tick_dt (s : State) : (tick s).dt = (if s.dt = 0 then 0 else s.dt - 1) := rfl
@[simp] theorem tick_st (s : State) : (tick s).st = (if s.st = 0 then 0 else s.st - 1) := rfl
@[simp] theorem tick_display (s : State) : (tick s).display = s.display := rfl
@[simp] theorem tick_keys (s : State) : (tick s).keys = s.keys := rfl
@[simp] theorem tick_mem (s : State) : (tick s).mem = s.mem := rfl
@[simp] theorem tick_halted (s : State) : (tick s).halted = s.halted := rfl
@[simp] theorem tick_err (s : State) : (tick s).err = s.err := rfl
@[simp] theorem tick_soundStop (s : State) : (tick s).soundStop = s.soundStop := rfl
@[simp] theorem tick_loadError (s : State) : (tick s).loadError = s.loadError := rfl
@[simp] theorem tick_loadOpen (s : State) : (tick s).loadOpen = s.loadOpen := rfl
@[simp] theorem tick_rndIndex (s : State) : (tick s).rndIndex = s.rndIndex := rfl
@[simp] theorem tick_params (s : State) : (tick s).params = s.params := rfl

/-! ### Reset -/

@[simp] theorem resetWith_v (p : Params) : (State.resetWith p).v = Vector.replicate 16 0 := rfl
@[simp] theorem resetWith_i (p : Params) : (State.resetWith p).i = 0 := rfl
@[simp] theorem resetWith_pc (p : Params) : (State.resetWith p).pc = 0x200 := rfl
@[simp] theorem resetWith_sp (p : Params) : (State.resetWith p).sp = 0 := rfl
@[simp] theorem resetWith_stack (p : Params) : (State.resetWith p).stack = Vector.replicate 16 0 := rfl
@[simp] theorem resetWith_dt (p : Params) : (State.resetWith p).dt = 0 := rfl
@[simp] theorem resetWith_st (p : Params) : (State.resetWith p).st = 0 := rfl
@[simp] theorem resetWith_display (p : Params) : (State.resetWith p).display = Vector.replicate 32 0 := rfl
@[simp] theorem resetWith_keys (p : Params) : (State.resetWith p).keys = Vector.replicate 16 false := rfl
@[simp] theorem resetWith_mem (p : Params) : (State.resetWith p).mem = [] := rfl
@[simp] theorem resetWith_halted (p : Params) : (State.resetWith p).halted = false := rfl
@[simp] theorem resetWith_err (p : Params) : (State.resetWith p).err = ErrRecord.cleared := rfl
@[simp] theorem resetWith_soundStop (p : Params) : (State.resetWith p).soundStop = false := rfl
@[simp] theorem resetWith_loadError (p : Params) : (State.resetWith p).loadError = false := rfl
@[simp] theorem resetWith_loadOpen (p : Params) : (State.resetWith p).loadOpen = true := rfl
@[simp] theorem resetWith_rndIndex (p : Params) : (State.resetWith p).rndIndex = 0 := rfl
@[simp] theorem resetWith_params (p : Params) : (State.resetWith p).params = p := rfl

/-! ### Registers and bytes read through the updates -/

/-- Reading a register after writing one. -/
theorem State.getV_setV (s : State) (r q : Reg) (b : Byte) :
    (s.setV r b).getV q = if r = q then b else s.getV q := by
  simp only [State.getV, State.setV_v, Vector.getElem_set, Fin.ext_iff]

@[simp] theorem State.getV_setV_self (s : State) (r : Reg) (b : Byte) : (s.setV r b).getV r = b := by
  simp [State.getV_setV]

/-- A write leaves every other register alone. -/
theorem State.getV_setV_ne (s : State) {r q : Reg} (b : Byte) (h : r ≠ q) :
    (s.setV r b).getV q = s.getV q := by
  simp [State.getV_setV, h]

/-- A register depends on the register file alone. -/
theorem State.getV_congr {s t : State} (h : t.v = s.v) (r : Reg) : t.getV r = s.getV r := by
  simp [State.getV, h]

/-- Two states with the same registers have the same register file. -/
theorem State.v_ext {s t : State} (h : ∀ r, t.getV r = s.getV r) : t.v = s.v := by
  ext k hk : 1
  exact h ⟨k, hk⟩

/-- A byte of memory depends on the memory list and the font alone. -/
theorem State.byteAt_congr {s t : State} (hm : t.mem = s.mem) (hp : t.params = s.params) (a : Nat) :
    t.byteAt a = s.byteAt a := by
  simp [State.byteAt, hm, hp]

/-- The state after the fetch, taken back, is the state at the start of the step. -/
@[simp] theorem State.rewind_advance (s : State) : s.advance.rewind = s := by
  simp [State.advance, State.rewind, State.setPc]

@[simp] theorem State.byteAt_setV (s : State) (r : Reg) (b : Byte) (a : Nat) :
    (s.setV r b).byteAt a = s.byteAt a := rfl
@[simp] theorem State.getV_setI (s : State) (w : Word) (q : Reg) :
    (s.setI w).getV q = s.getV q := rfl
@[simp] theorem State.byteAt_setI (s : State) (w : Word) (a : Nat) :
    (s.setI w).byteAt a = s.byteAt a := rfl
@[simp] theorem State.getV_setPc (s : State) (w : Word) (q : Reg) :
    (s.setPc w).getV q = s.getV q := rfl
@[simp] theorem State.byteAt_setPc (s : State) (w : Word) (a : Nat) :
    (s.setPc w).byteAt a = s.byteAt a := rfl
@[simp] theorem State.getV_setDt (s : State) (b : Byte) (q : Reg) :
    (s.setDt b).getV q = s.getV q := rfl
@[simp] theorem State.byteAt_setDt (s : State) (b : Byte) (a : Nat) :
    (s.setDt b).byteAt a = s.byteAt a := rfl
@[simp] theorem State.getV_setSt (s : State) (b : Byte) (q : Reg) :
    (s.setSt b).getV q = s.getV q := rfl
@[simp] theorem State.byteAt_setSt (s : State) (b : Byte) (a : Nat) :
    (s.setSt b).byteAt a = s.byteAt a := rfl
@[simp] theorem State.getV_setDisplay (s : State) (d : Display) (q : Reg) :
    (s.setDisplay d).getV q = s.getV q := rfl
@[simp] theorem State.byteAt_setDisplay (s : State) (d : Display) (a : Nat) :
    (s.setDisplay d).byteAt a = s.byteAt a := rfl
@[simp] theorem State.getV_setMem (s : State) (m : Memory) (q : Reg) :
    (s.setMem m).getV q = s.getV q := rfl
@[simp] theorem State.getV_setStack (s : State) (p : Fin 17) (t : Vector Word 16) (q : Reg) :
    (s.setStack p t).getV q = s.getV q := rfl
@[simp] theorem State.byteAt_setStack (s : State) (p : Fin 17) (t : Vector Word 16) (a : Nat) :
    (s.setStack p t).byteAt a = s.byteAt a := rfl
@[simp] theorem State.getV_advance (s : State) (q : Reg) :
    (s.advance).getV q = s.getV q := rfl
@[simp] theorem State.byteAt_advance (s : State) (a : Nat) :
    (s.advance).byteAt a = s.byteAt a := rfl
@[simp] theorem State.getV_rewind (s : State) (q : Reg) :
    (s.rewind).getV q = s.getV q := rfl
@[simp] theorem State.byteAt_rewind (s : State) (a : Nat) :
    (s.rewind).byteAt a = s.byteAt a := rfl

end Sys2Proof.Machine
end

