-- ==== Sys2Proof/Laws/Ops.lean ====
section
/-! SUPPORT. Laws/Ops.lean: for each shared operation, once, everything it can do. Later proofs cite these and do not unfold
the operations. -/

namespace Sys2Proof.Machine

/-! ### Memory access -/

/-- A checked read answers the byte inside memory and raises OutOfBounds above it. -/
theorem memRead_spec (s : State) (a : Nat) :
    (a ≤ 0xFFF → memRead s a = .ok (s.byteAt a)) ∧ (0xFFF < a → memRead s a = .error (raiseOutOfBounds a)) := by
  constructor <;> intro h <;> simp [memRead] <;> omega

/-- A checked write puts the byte at 0x050-0xFFF, and else raises. -/
theorem memWrite_spec (s : State) (a : Nat) (w : Byte) :
    (0x50 ≤ a → a ≤ 0xFFF → memWrite s a w = .ok (s.setMem (Memory.put s.params.font a w s.mem))) ∧
    (a ≤ 0x4F → memWrite s a w = .error (raiseFontWrite a)) ∧
    (0xFFF < a → memWrite s a w = .error (raiseOutOfBounds a)) := by
  refine ⟨fun h h' => ?_, fun h => ?_, fun h => ?_⟩
  · simp [memWrite, show ¬ 4095 < a by omega, show ¬ a ≤ 79 by omega]
  · simp [memWrite, show ¬ 4095 < a by omega, show a ≤ 79 by omega]
  · simp [memWrite, h]

/-- The bytes from `a` upwards. -/
def bytesFrom (s : State) (a n : Nat) : List Byte := (List.range n).map fun k => s.byteAt (a + k)

@[simp] theorem bytesFrom_length (s : State) (a n : Nat) : (bytesFrom s a n).length = n := by
  simp [bytesFrom]

theorem bytesFrom_succ (s : State) (a n : Nat) :
    bytesFrom s a (n + 1) = s.byteAt a :: bytesFrom s (a + 1) n := by
  simp only [bytesFrom, List.range_succ_eq_map, List.map_cons, Nat.add_zero, List.map_map]
  congr 1
  apply List.map_congr_left
  intro k _
  simp [Nat.add_assoc, Nat.add_comm 1 k]

/-- A block read inside memory answers its bytes. -/
theorem readBlock_ok (s : State) {a n : Nat} (h : n = 0 ∨ a + n ≤ 0x1000) :
    readBlock s a n = .ok (bytesFrom s a n) := by
  induction n generalizing a with
  | zero => rfl
  | succ n ih =>
    simp only [readBlock, (memRead_spec s a).1 (by omega), ih (a := a + 1) (by omega), bytesFrom_succ]

/-- A block read that leaves memory raises at its lowest address outside. -/
theorem readBlock_error (s : State) {a n : Nat} (hn : n ≠ 0) (h : 0x1000 < a + n) :
    readBlock s a n = .error (raiseOutOfBounds (max a 0x1000)) := by
  induction n generalizing a with
  | zero => exact absurd rfl hn
  | succ n ih =>
    by_cases ha : a ≤ 0xFFF
    · by_cases h0 : n = 0
      · omega
      · have hmax : max (a + 1) 0x1000 = max a 0x1000 := by omega
        simp only [readBlock, (memRead_spec s a).1 ha, ih (a := a + 1) h0 (by omega), hmax]
    · have hmax : max a 0x1000 = a := by omega
      simp only [readBlock, (memRead_spec s a).2 (by omega), hmax]

/-- A block write inside 0x050-0xFFF puts its bytes. -/
theorem writeBlock_ok {bs : List Byte} {s : State} {a : Nat} (h0 : bs = [] ∨ 0x50 ≤ a)
    (h : bs = [] ∨ a + bs.length ≤ 0x1000) :
    writeBlock s a bs = .ok (s.setMem (Memory.putBytes s.params.font a bs s.mem)) := by
  induction bs generalizing s a with
  | nil => rfl
  | cons b bs ih =>
    simp only [List.length_cons, reduceCtorEq, false_or] at h h0
    simp only [writeBlock, (memWrite_spec s a b).1 h0 (by omega),
      ih (s := s.setMem (Memory.put s.params.font a b s.mem)) (a := a + 1) (.inr (by omega)) (.inr (by omega))]
    rfl

/-- A block write that starts in the font raises FontWrite there. -/
theorem writeBlock_font {bs : List Byte} {s : State} {a : Nat} (hb : bs ≠ []) (h : a ≤ 0x4F) :
    writeBlock s a bs = .error (raiseFontWrite a) := by
  cases bs with
  | nil => exact absurd rfl hb
  | cons b bs => simp [writeBlock, (memWrite_spec s a b).2.1 h]

/-- A block write above the font that leaves memory raises at its lowest address outside. -/
theorem writeBlock_outOfBounds {bs : List Byte} {s : State} {a : Nat} (hb : bs ≠ []) (h0 : 0x50 ≤ a)
    (h : 0x1000 < a + bs.length) : writeBlock s a bs = .error (raiseOutOfBounds (max a 0x1000)) := by
  induction bs generalizing s a with
  | nil => exact absurd rfl hb
  | cons b bs ih =>
    simp only [List.length_cons] at h
    by_cases ha : a ≤ 0xFFF
    · have hne : bs ≠ [] := by
        rintro rfl
        simp at h
        omega
      have hmax : max (a + 1) 0x1000 = max a 0x1000 := by omega
      simp only [writeBlock, (memWrite_spec s a b).1 h0 ha, ih hne (a := a + 1) (by omega) (by omega), hmax]
    · have hmax : max a 0x1000 = a := by omega
      simp only [writeBlock, (memWrite_spec s a b).2.2 (by omega), hmax]

/-- Whatever a block write answers, it wrote only memory, at 0x050-0xFFF. -/
theorem writeBlock_cases {bs : List Byte} {s t : State} {a : Nat} (h : writeBlock s a bs = .ok t) :
    t = s.setMem (Memory.putBytes s.params.font a bs s.mem) ∧
      (bs = [] ∨ 0x50 ≤ a ∧ a + bs.length ≤ 0x1000) := by
  by_cases hb : bs = []
  · subst hb
    simp only [writeBlock, Except.ok.injEq] at h
    exact ⟨h ▸ rfl, .inl rfl⟩
  · by_cases h0 : 0x50 ≤ a
    · by_cases h1 : a + bs.length ≤ 0x1000
      · rw [writeBlock_ok (.inr h0) (.inr h1)] at h
        exact ⟨(Except.ok.inj h).symm, .inr ⟨h0, h1⟩⟩
      · rw [writeBlock_outOfBounds hb h0 (by omega)] at h
        cases h
    · rw [writeBlock_font hb (by omega)] at h
      cases h

/-! ### Fetch -/

/-- A fetch inside memory answers the two bytes, big-endian. -/
theorem fetch_ok {s : State} (h : s.pc.toNat ≤ 0xFFE) :
    fetch s = .ok (joinBytes (s.byteAt s.pc.toNat) (s.byteAt (s.pc.toNat + 1))) := by
  rw [fetch, readBlock_ok s (.inr (by omega))]
  rfl

/-- A fetch that leaves memory raises at the first byte outside. -/
theorem fetch_error {s : State} (h : 0xFFE < s.pc.toNat) :
    fetch s = .error (raiseOutOfBounds (max s.pc.toNat 0x1000)) := by
  rw [fetch, readBlock_error s (by decide) (by omega)]

/-! ### Stack -/

/-- A push with a free slot. -/
theorem push_ok {s : State} (w : Word) (h : s.sp.val < 16) :
    push s w = .ok (s.setStack ⟨s.sp.val + 1, by omega⟩ (s.stack.set s.sp.val w)) := by
  simp [push, h]

/-- A push with none. -/
theorem push_full {s : State} (w : Word) (h : s.sp.val = 16) :
    push s w = .error { kind := .stackOverflow, info := pcInfo s } := by
  simp [push, h]

/-- A pop with an entry. -/
theorem pop_ok {s : State} (h : 0 < s.sp.val) :
    pop s = .ok (s.stack[s.sp.val - 1]'(by omega), s.setStack ⟨s.sp.val - 1, by omega⟩ s.stack) := by
  simp [pop, show s.sp.val ≠ 0 by omega]

/-- A pop with none. -/
theorem pop_empty {s : State} (h : s.sp.val = 0) :
    pop s = .error { kind := .stackUnderflow, info := pcInfo s } := by
  simp [pop, h]

/-! ### Program counter -/

/-- A skip leaves every field but pc. -/
theorem State.skipIf_eq (s : State) (c : Bool) : s.skipIf c = s.setPc (if c then s.pc + 2 else s.pc) := by
  cases c <;> rfl

/-! ### Keypad -/

/-- A key index in range answers its flag. -/
theorem keyOperand_ok {s : State} {x : Reg} (h : (s.getV x).toNat < 16) :
    keyOperand s x = .ok s.keys[(s.getV x).toNat] := by
  simp [keyOperand, h]

/-- A key index out of range raises with it. -/
theorem keyOperand_error {s : State} {x : Reg} (h : 16 ≤ (s.getV x).toNat) :
    keyOperand s x = .error { kind := .keyOutOfRange, info := (s.getV x).setWidth 17 } := by
  simp [keyOperand, show ¬ (s.getV x).toNat < 16 by omega]

/-- The scan finds nothing exactly when no flag is set. -/
theorem lowestPressed_none {ks : List Bool} : lowestPressed ks = none ↔ ∀ b ∈ ks, b = false := by
  induction ks with
  | nil => simp [lowestPressed]
  | cons b ks ih => cases b <;> simp [lowestPressed, ih]

/-- The scan finds the lowest set flag. -/
theorem lowestPressed_some {ks : List Bool} {k : Nat} :
    lowestPressed ks = some k ↔ ks[k]? = some true ∧ ∀ j < k, ks[j]? = some false := by
  induction ks generalizing k with
  | nil => simp [lowestPressed]
  | cons b ks ih =>
    cases b with
    | true =>
      cases k with
      | zero => simp [lowestPressed]
      | succ k =>
        refine ⟨fun h => by simp [lowestPressed] at h, fun h => ?_⟩
        have h0 := h.2 0 (by omega)
        simp at h0
    | false =>
      cases k with
      | zero => simp [lowestPressed]
      | succ k =>
        simp only [lowestPressed, Option.map_eq_some_iff, Nat.add_right_cancel_iff, exists_eq_right, ih,
          List.getElem?_cons_succ]
        refine and_congr_right fun _ => ⟨fun h j hj => ?_, fun h j hj => ?_⟩
        · cases j with
          | zero => simp
          | succ j => simpa using h j (by omega)
        · simpa using h (j + 1) (by omega)

/-! ### Flags -/

/-- The flag byte as a number. -/
theorem flagByte_toNat (c : Bool) : (flagByte c).toNat = if c then 1 else 0 := by cases c <;> rfl

/-- Result and flag reach only VX and VF. -/
theorem writeResultAndFlag_getV (x q : Reg) (r : Byte) (f : Bool) (s : State) :
    (writeResultAndFlag x r f s).getV q =
      if q = Reg.vf ∧ (x ≠ Reg.vf ∨ s.params.vfOrder = .flagLast) then flagByte f
      else if q = x then r else s.getV q := by
  unfold writeResultAndFlag
  cases hv : s.params.vfOrder <;> simp only [State.getV_setV, reduceCtorEq, or_true, or_false, and_true]
  · by_cases h1 : q = Reg.vf
    · simp [h1]
    · simp [h1, Ne.symm h1, eq_comm]
  · by_cases h1 : q = Reg.vf <;> by_cases h2 : x = Reg.vf
    · simp [h1, h2]
    · simp [h1, h2]
    · simp [h1, h2, Ne.symm h1]
    · simp [h1, Ne.symm h1, eq_comm]

/-- Result and flag change the register file alone. -/
theorem writeResultAndFlag_rest (x : Reg) (r : Byte) (f : Bool) (s : State) :
    { writeResultAndFlag x r f s with v := s.v } = s := by
  unfold writeResultAndFlag
  split <;> rfl

/-! ### Display -/

/-- One flipped pixel, the others as they were. -/
theorem Display.pixel_flip (d : Display) (x y c r : Nat) :
    (d.flip x y).pixel c r =
      (d.pixel c r ^^ (decide (c % 64 = x % 64) && decide (r % 32 = y % 32))) := by
  simp only [Display.pixel, Display.flip, Vector.getElem_set]
  by_cases hr : y % 32 = r % 32
  · simp only [hr, if_true, BitVec.getLsbD_xor, BitVec.getLsbD_twoPow, decide_true, Bool.and_true]
    congr 1
    simp [eq_comm, Nat.mod_lt]
  · simp [hr, Ne.symm hr, eq_comm]

/-- A cleared display has no lit pixel. -/
theorem Display.pixel_clear (x y : Nat) : Display.clear.pixel x y = false := by
  simp [Display.pixel, Display.clear]

/-! ### Register transfers -/

/-- Loading bytes into V[k], V[k + 1], ... . -/
theorem loadRegsFrom_getV (bs : List Byte) (s : State) (k : Nat) (hk : k + bs.length ≤ 16) (q : Reg) :
    (loadRegsFrom s k bs).getV q =
      if h : k ≤ q.val ∧ q.val < k + bs.length then bs[q.val - k]'(by omega) else s.getV q := by
  induction bs generalizing s k with
  | nil => simp [loadRegsFrom]
  | cons b bs ih =>
    simp only [List.length_cons] at hk
    have hk16 : k < 16 := by omega
    simp only [loadRegsFrom, hk16, dif_pos]
    rw [ih (s.setV ⟨k, hk16⟩ b) (k + 1) (by omega)]
    by_cases hq : q.val = k
    · have e : (⟨k, hk16⟩ : Reg) = q := Fin.ext hq.symm
      simp [hq, e]
    · have e : (⟨k, hk16⟩ : Reg) ≠ q := fun e => hq (by rw [← e])
      by_cases h : k + 1 ≤ q.val ∧ q.val < k + 1 + bs.length
      · have h' : k ≤ q.val ∧ q.val < k + (bs.length + 1) := by omega
        have hi : q.val - k = (q.val - (k + 1)) + 1 := by omega
        simp [h, h', hi]
      · have h' : ¬ (k ≤ q.val ∧ q.val < k + (bs.length + 1)) := by omega
        rw [dif_neg h, State.getV_setV, if_neg e]
        split
        · next hh => exact absurd hh h'
        · rfl

/-- Loading registers changes the register file alone. -/
theorem loadRegsFrom_rest (bs : List Byte) (s : State) (k : Nat) :
    { loadRegsFrom s k bs with v := s.v } = s := by
  induction bs generalizing s k with
  | nil => rfl
  | cons b bs ih =>
    unfold loadRegsFrom
    split
    · next h => simpa [State.setV] using congrArg (fun t => { t with v := s.v }) (ih (s.setV ⟨k, h⟩ b) (k + 1))
    · rfl

/-! ### The end of an instruction and of a step -/

/-- Every execute phase that may raise answers a next state: its own, or the fatal-error entry. -/
theorem commit_cases {i : Instr} {s t : State} {e : Except Raise State} (h : commit i s e = .next t) :
    e = .ok t ∨ ∃ r, e = .error r ∧ t = takeFatal s.rewind (encode i) r := by
  cases e with
  | ok u => exact .inl (by cases h; rfl)
  | error r => exact .inr ⟨r, rfl, by cases h; rfl⟩

/-- After a fatal error the end of the step does nothing. -/
theorem endStep_of_halted {st0 : Byte} {s : State} (h : s.halted = true) : endStep st0 s = s := by
  simp [endStep, h]

/-- After a completed execute phase the step ends with the tick and sound_stop. -/
theorem endStep_of_running {st0 : Byte} {s : State} (h : s.halted = false) :
    endStep st0 s =
      { tick s with
        soundStop := st0 ≠ 0 && (tick s).st = 0
        rndIndex := s.rndIndex + 1
        loadOpen := false } := by
  simp [endStep, h]

/-- One tick of a timer, as a number (R330). -/
theorem ticked_toNat (b : Byte) : (if b = 0 then 0 else b - 1 : Byte).toNat = b.toNat - 1 := by
  split
  · next h => simp [h]
  · next h =>
    have : b.toNat ≠ 0 := fun e => h (BitVec.eq_of_toNat_eq (by simpa using e))
    have hb := b.isLt
    rw [BitVec.toNat_sub]
    simp
    omega

end Sys2Proof.Machine
end

