-- ==== Sys2Proof/Laws/PerInstr.lean ====
section
/-! SUPPORT. Laws/PerInstr.lean: the family EncodingKeepsPattern, one lemma per constructor of Instr: the encoding of an
instruction carries the fixed digits of its row of the mask table (30_encoding.md R120). -/

namespace Sys2Proof.Laws.EncodingKeepsPattern

/-- The opcode of `i` fits the row of `i`. -/
def Statement (i : Instr) : Prop := (maskTable[i.rowIndex]?).map (fun r => r.fits (encode i)) = some true

/-- A mask that keeps the class nibble alone, on format NNN. -/
theorem encNNN_class (cls : Nibble) (nnn : Addr) : encNNN cls nnn &&& 0xF000 = cls ++ 0#12 := by
  have h : (0xF000 : Word) = 0xF#4 ++ 0#12 := by decide
  rw [encNNN, h, BitVec.and_append, BitVec.and_zero, show 0xF#4 = BitVec.allOnes 4 by decide, BitVec.and_allOnes]

/-- A mask that keeps the class nibble alone, on format XNN. -/
theorem encXNN_class (cls : Nibble) (x : Reg) (nn : Byte) :
    encXNN cls x nn &&& 0xF000 = cls ++ 0#4 ++ 0#8 := by
  have h : (0xF000 : Word) = 0xF#4 ++ 0#4 ++ 0#8 := by decide
  rw [encXNN, h, BitVec.and_append, BitVec.and_append, BitVec.and_zero, BitVec.and_zero,
    show 0xF#4 = BitVec.allOnes 4 by decide, BitVec.and_allOnes]

/-- A mask that keeps the class nibble and the low byte, on format X. -/
theorem encXNN_low (cls : Nibble) (x : Reg) (nn : Byte) :
    encXNN cls x nn &&& 0xF0FF = cls ++ 0#4 ++ nn := by
  have h : (0xF0FF : Word) = 0xF#4 ++ 0#4 ++ 0xFF#8 := by decide
  rw [encXNN, h, BitVec.and_append, BitVec.and_append, BitVec.and_zero,
    show 0xF#4 = BitVec.allOnes 4 by decide, BitVec.and_allOnes,
    show 0xFF#8 = BitVec.allOnes 8 by decide, BitVec.and_allOnes]

/-- A mask that keeps the class nibble and the low nibble, on format XY. -/
theorem encXYN_sub (cls : Nibble) (x y : Reg) (n : Nibble) :
    encXYN cls x y n &&& 0xF00F = cls ++ 0#4 ++ 0#4 ++ n := by
  have h : (0xF00F : Word) = 0xF#4 ++ 0#4 ++ 0#4 ++ 0xF#4 := by decide
  rw [encXYN, h, BitVec.and_append, BitVec.and_append, BitVec.and_append, BitVec.and_zero, BitVec.and_zero,
    show 0xF#4 = BitVec.allOnes 4 by decide, BitVec.and_allOnes, BitVec.and_allOnes]

/-- A mask that keeps the class nibble alone, on format XYN. -/
theorem encXYN_class (cls : Nibble) (x y : Reg) (n : Nibble) :
    encXYN cls x y n &&& 0xF000 = cls ++ 0#4 ++ 0#4 ++ 0#4 := by
  have h : (0xF000 : Word) = 0xF#4 ++ 0#4 ++ 0#4 ++ 0#4 := by decide
  rw [encXYN, h, BitVec.and_append, BitVec.and_append, BitVec.and_append, BitVec.and_zero, BitVec.and_zero,
    BitVec.and_zero, show 0xF#4 = BitVec.allOnes 4 by decide, BitVec.and_allOnes]

theorem cls : Statement .cls := by
  rfl

theorem ret : Statement .ret := by
  rfl

theorem jp (nnn : Addr) : Statement (.jp nnn) := by
  refine congrArg some (beq_iff_eq.mpr ?_)
  exact (encNNN_class _ _).trans (by decide)

theorem call (nnn : Addr) : Statement (.call nnn) := by
  refine congrArg some (beq_iff_eq.mpr ?_)
  exact (encNNN_class _ _).trans (by decide)

theorem seImm (x : Reg) (nn : Byte) : Statement (.seImm x nn) := by
  refine congrArg some (beq_iff_eq.mpr ?_)
  exact (encXNN_class _ _ _).trans (by decide)

theorem sneImm (x : Reg) (nn : Byte) : Statement (.sneImm x nn) := by
  refine congrArg some (beq_iff_eq.mpr ?_)
  exact (encXNN_class _ _ _).trans (by decide)

theorem seReg (x y : Reg) : Statement (.seReg x y) := by
  refine congrArg some (beq_iff_eq.mpr ?_)
  exact (encXYN_sub _ _ _ _).trans (by decide)

theorem sneReg (x y : Reg) : Statement (.sneReg x y) := by
  refine congrArg some (beq_iff_eq.mpr ?_)
  exact (encXYN_sub _ _ _ _).trans (by decide)

theorem ldImm (x : Reg) (nn : Byte) : Statement (.ldImm x nn) := by
  refine congrArg some (beq_iff_eq.mpr ?_)
  exact (encXNN_class _ _ _).trans (by decide)

theorem addImm (x : Reg) (nn : Byte) : Statement (.addImm x nn) := by
  refine congrArg some (beq_iff_eq.mpr ?_)
  exact (encXNN_class _ _ _).trans (by decide)

theorem ldReg (x y : Reg) : Statement (.ldReg x y) := by
  refine congrArg some (beq_iff_eq.mpr ?_)
  exact (encXYN_sub _ _ _ _).trans (by decide)

theorem orReg (x y : Reg) : Statement (.orReg x y) := by
  refine congrArg some (beq_iff_eq.mpr ?_)
  exact (encXYN_sub _ _ _ _).trans (by decide)

theorem andReg (x y : Reg) : Statement (.andReg x y) := by
  refine congrArg some (beq_iff_eq.mpr ?_)
  exact (encXYN_sub _ _ _ _).trans (by decide)

theorem xorReg (x y : Reg) : Statement (.xorReg x y) := by
  refine congrArg some (beq_iff_eq.mpr ?_)
  exact (encXYN_sub _ _ _ _).trans (by decide)

theorem addReg (x y : Reg) : Statement (.addReg x y) := by
  refine congrArg some (beq_iff_eq.mpr ?_)
  exact (encXYN_sub _ _ _ _).trans (by decide)

theorem subReg (x y : Reg) : Statement (.subReg x y) := by
  refine congrArg some (beq_iff_eq.mpr ?_)
  exact (encXYN_sub _ _ _ _).trans (by decide)

theorem shr (x y : Reg) : Statement (.shr x y) := by
  refine congrArg some (beq_iff_eq.mpr ?_)
  exact (encXYN_sub _ _ _ _).trans (by decide)

theorem subnReg (x y : Reg) : Statement (.subnReg x y) := by
  refine congrArg some (beq_iff_eq.mpr ?_)
  exact (encXYN_sub _ _ _ _).trans (by decide)

theorem ldI (nnn : Addr) : Statement (.ldI nnn) := by
  refine congrArg some (beq_iff_eq.mpr ?_)
  exact (encNNN_class _ _).trans (by decide)

theorem jpV0 (nnn : Addr) : Statement (.jpV0 nnn) := by
  refine congrArg some (beq_iff_eq.mpr ?_)
  exact (encNNN_class _ _).trans (by decide)

theorem rnd (x : Reg) (nn : Byte) : Statement (.rnd x nn) := by
  refine congrArg some (beq_iff_eq.mpr ?_)
  exact (encXNN_class _ _ _).trans (by decide)

theorem drw (x y : Reg) (n : Nibble) : Statement (.drw x y n) := by
  refine congrArg some (beq_iff_eq.mpr ?_)
  exact (encXYN_class _ _ _ _).trans (by decide)

theorem skp (x : Reg) : Statement (.skp x) := by
  refine congrArg some (beq_iff_eq.mpr ?_)
  exact (encXNN_low _ _ _).trans (by decide)

theorem sknp (x : Reg) : Statement (.sknp x) := by
  refine congrArg some (beq_iff_eq.mpr ?_)
  exact (encXNN_low _ _ _).trans (by decide)

theorem ldVxDt (x : Reg) : Statement (.ldVxDt x) := by
  refine congrArg some (beq_iff_eq.mpr ?_)
  exact (encXNN_low _ _ _).trans (by decide)

theorem ldDtVx (x : Reg) : Statement (.ldDtVx x) := by
  refine congrArg some (beq_iff_eq.mpr ?_)
  exact (encXNN_low _ _ _).trans (by decide)

theorem ldStVx (x : Reg) : Statement (.ldStVx x) := by
  refine congrArg some (beq_iff_eq.mpr ?_)
  exact (encXNN_low _ _ _).trans (by decide)

theorem addI (x : Reg) : Statement (.addI x) := by
  refine congrArg some (beq_iff_eq.mpr ?_)
  exact (encXNN_low _ _ _).trans (by decide)

theorem ldF (x : Reg) : Statement (.ldF x) := by
  refine congrArg some (beq_iff_eq.mpr ?_)
  exact (encXNN_low _ _ _).trans (by decide)

theorem ldB (x : Reg) : Statement (.ldB x) := by
  refine congrArg some (beq_iff_eq.mpr ?_)
  exact (encXNN_low _ _ _).trans (by decide)

theorem storeRegs (x : Reg) : Statement (.storeRegs x) := by
  refine congrArg some (beq_iff_eq.mpr ?_)
  exact (encXNN_low _ _ _).trans (by decide)

theorem loadRegs (x : Reg) : Statement (.loadRegs x) := by
  refine congrArg some (beq_iff_eq.mpr ?_)
  exact (encXNN_low _ _ _).trans (by decide)

theorem ldVxK (x : Reg) : Statement (.ldVxK x) := by
  refine congrArg some (beq_iff_eq.mpr ?_)
  exact (encXNN_low _ _ _).trans (by decide)

end Sys2Proof.Laws.EncodingKeepsPattern
end

