-- ==== Sys2Proof/Laws/Step.lean ====
section
/-! SUPPORT. Laws/Step.lean: once, everything a step request can do. -/

namespace Sys2Proof.Machine

/-- The opcode a fetch inside memory reads. -/
def State.opcodeAt (s : State) : Word :=
  joinBytes (s.byteAt s.pc.toNat) (s.byteAt (s.pc.toNat + 1))

/-- If a step answers a next state, then the block was halted and nothing changed, or the fetch left memory, or the opcode
is unmatched, or the execute phase of the decoded instruction answered and the step ended. -/
theorem step_cases {s t : State} (h : step s = .next t) :
    (s.halted = true ∧ t = s) ∨
    (s.halted = false ∧ s.loadError = false ∧
      ((0xFFE < s.pc.toNat ∧ t = takeFatal s 0 (raiseOutOfBounds (max s.pc.toNat 0x1000))) ∨
      (s.pc.toNat ≤ 0xFFE ∧
        ((∃ e, decodeWord s.opcodeAt = .error e ∧ t = unmatchedOpcode s s.opcodeAt) ∨
        (∃ i u, decodeWord s.opcodeAt = .ok i ∧ exec i s.advance = .next u ∧ t = endStep s.st u))))) := by
  unfold step at h
  by_cases hh : s.halted = true
  · rw [if_pos hh] at h
    exact .inl ⟨hh, (Host.Outcome.next.inj h).symm⟩
  · rw [if_neg hh] at h
    by_cases hl : s.loadError = true
    · rw [if_pos hl] at h
      cases h
    · rw [if_neg hl] at h
      refine .inr ⟨by simpa using hh, by simpa using hl, ?_⟩
      by_cases hp : s.pc.toNat ≤ 0xFFE
      · rw [fetch_ok hp] at h
        refine .inr ⟨hp, ?_⟩
        change (match decodeWord s.opcodeAt with
          | .error _ => Host.Outcome.next (unmatchedOpcode s s.opcodeAt)
          | .ok i => afterExecute s.st (exec i s.advance)) = .next t at h
        cases hd : decodeWord s.opcodeAt with
        | error e =>
          rw [hd] at h
          exact .inl ⟨e, rfl, (Host.Outcome.next.inj h).symm⟩
        | ok i =>
          rw [hd] at h
          cases he : exec i s.advance with
          | next u =>
            refine .inr ⟨i, u, rfl, he, ?_⟩
            simp only [he, afterExecute] at h
            exact (Host.Outcome.next.inj h).symm
          | fault f => cases f
          | refused r => simp [he, afterExecute] at h
      · rw [fetch_error (by omega)] at h
        exact .inl ⟨by omega, (Host.Outcome.next.inj h).symm⟩

end Sys2Proof.Machine
end

