-- ==== Sys2Proof/Tests/Slice0.lean ====
section
/-! SUPPORT. Tests/Slice0.lean: named tests. Expected results are the spec's own vectors (95_test_vectors.md, named in each
comment) or its encodings; the witnesses at the end show that the hypotheses of each statement can be met. -/

namespace Sys2Proof.Tests

open Sys2Proof.Machine

/-! ### Builders -/

/-- Reset, with an opcode at 0x200. -/
def at200 (op : Nat) : State := State.reset.withFetchWord 16 op

/-- Some registers set. -/
def regs (l : List (Reg × Byte)) (s : State) : State := l.foldl (fun s p => s.setV p.1 p.2) s

/-- Some bytes placed. -/
def bytes (a : Nat) (l : List Byte) (s : State) : State :=
  s.setMem (Memory.putBytes s.params.font a l s.mem)

/-- Some pixels lit. -/
def lit (l : List (Nat × Nat)) (s : State) : State :=
  l.foldl (fun s p => s.setDisplay (s.display.flip p.1 p.2)) s

/-- Some keys pressed. -/
def pressed (l : List (Fin 16)) (s : State) : State :=
  l.foldl (fun s k => { s with keys := s.keys.set k.val true }) s

/-- The return stack filled up to `n` entries. -/
def stacked (n : Fin 17) (w : Word) (s : State) : State :=
  s.setStack n (Vector.replicate 16 w)

/-- ResultLast instead of the default. -/
def resultLast (s : State) : State := { s with params := { s.params with vfOrder := .resultLast } }

/-- Nop instead of the default. -/
def permissive (s : State) : State := { s with params := { s.params with decodeUnmatched := .nop } }

/-- What one step leaves, seen through `f`. -/
def after {α : Type} (s : State) (f : State → α) : Option α := (nextOf (step s)).map f

/-- The error code, opcode, address and info one step leaves, and pc. -/
def record (s : State) : Option (BitVec 3 × Word × Word × BitVec 17 × Word) :=
  after s fun t => (t.errKindOut, t.err.opcode, t.err.addr, t.err.info, t.pc)

/-! ### Well-formedness: every check refuses an ill-formed term -/

theorem smoke_word_good : wellFormedWord 0x8126 = true := by decide
theorem smoke_word_class0 : wellFormedWord 0x0123 = false := by decide
theorem smoke_word_class5 : wellFormedWord 0x5121 = false := by decide
theorem smoke_word_class8 : wellFormedWord 0x812E = false := by decide
theorem smoke_word_class9 : wellFormedWord 0x912F = false := by decide
theorem smoke_word_classE : wellFormedWord 0xE19F = false := by decide
theorem smoke_word_classF : wellFormedWord 0xF130 = false := by decide
theorem smoke_rom_longest : wellFormedRom (List.replicate 3584 0) = true := by
  unfold wellFormedRom
  rw [List.length_replicate]
  decide
theorem smoke_rom_too_long : wellFormedRom (List.replicate 3585 0) = false := by
  unfold wellFormedRom
  rw [List.length_replicate]
  decide
theorem smoke_memory_good : Memory.wf Config.font [(0x300, 1), (0x301, 2)] := by decide
theorem smoke_memory_unsorted : ¬ Memory.wf Config.font [(0x301, 2), (0x300, 1)] := by decide
theorem smoke_memory_twice : ¬ Memory.wf Config.font [(0x300, 2), (0x300, 1)] := by decide
theorem smoke_memory_default : ¬ Memory.wf Config.font [(0x300, 0)] := by decide
theorem smoke_memory_outside : ¬ Memory.wf Config.font [(0x1000, 1)] := by decide
theorem smoke_reset_inv : State.reset.Inv := by decide
theorem smoke_font_listed : ¬ (bytes 0x010 [0x77] State.reset).MemOk := by decide
theorem smoke_pc_too_high : ¬ (State.reset.setPc 0x10FF).FlowOk := by decide
theorem smoke_stack_too_high : ¬ (stacked 1 0x1001 State.reset).FlowOk := by decide
theorem smoke_halted_without_record : ¬ { State.reset with halted := true }.ErrOk := by decide
theorem smoke_sound_stop_running : ¬ { State.reset with soundStop := true, st := 3 }.OutOk := by decide
theorem smoke_load_error_open : ¬ { State.reset with loadError := true }.OutOk := by decide

/-! ### Decoding: words written out from the patterns of R120, every constructor -/

theorem decode_flow :
    [0x00E0#16, 0x00EE, 0x1ABC, 0x2ABC, 0x3A5C, 0x4A5C, 0x5AB0, 0x9AB0].map decodeWord =
      [.ok .cls, .ok .ret, .ok (.jp 0xABC), .ok (.call 0xABC), .ok (.seImm 0xA 0x5C),
       .ok (.sneImm 0xA 0x5C), .ok (.seReg 0xA 0xB), .ok (.sneReg 0xA 0xB)] := by decide

theorem decode_alu :
    [0x6A5C#16, 0x7A5C, 0x8AB0, 0x8AB1, 0x8AB2, 0x8AB3, 0x8AB4, 0x8AB5, 0x8AB6, 0x8AB7].map decodeWord =
      [.ok (.ldImm 0xA 0x5C), .ok (.addImm 0xA 0x5C), .ok (.ldReg 0xA 0xB), .ok (.orReg 0xA 0xB),
       .ok (.andReg 0xA 0xB), .ok (.xorReg 0xA 0xB), .ok (.addReg 0xA 0xB), .ok (.subReg 0xA 0xB),
       .ok (.shr 0xA 0xB), .ok (.subnReg 0xA 0xB)] := by decide

theorem decode_index_draw_keypad :
    [0xA123#16, 0xB123, 0xC35A, 0xD125, 0xE39E, 0xE3A1].map decodeWord =
      [.ok (.ldI 0x123), .ok (.jpV0 0x123), .ok (.rnd 3 0x5A), .ok (.drw 1 2 5), .ok (.skp 3),
       .ok (.sknp 3)] := by decide

theorem decode_misc :
    [0xF307#16, 0xF315, 0xF318, 0xF31E, 0xF329, 0xF333, 0xF355, 0xF365, 0xF30A].map decodeWord =
      [.ok (.ldVxDt 3), .ok (.ldDtVx 3), .ok (.ldStVx 3), .ok (.addI 3), .ok (.ldF 3), .ok (.ldB 3),
       .ok (.storeRegs 3), .ok (.loadRegs 3), .ok (.ldVxK 3)] := by decide

/-- R123, one word of each class. -/
theorem decode_unmatched :
    [0x0000#16, 0x5AB1, 0x8AB8, 0x9ABF, 0xE09F, 0xF056].map decodeWord =
      [.error (.unmatched .class0), .error (.unmatched .class5), .error (.unmatched .class8),
       .error (.unmatched .class9), .error (.unmatched .classE), .error (.unmatched .classF)] := by decide

/-- R82: the first byte is the high one; a lone byte is truncated. -/
theorem decode_bytes :
    decodeBytes [0xD1, 0x25, 0x77] = .ok (.drw 1 2 5, [0x77]) ∧ decodeBytes [0xD1] = .error .truncated := by
  decide

theorem decode_table_word :
    decodeTableWord 16 0x8126 = some (.shr 1 2) ∧ decodeTableWord 16 0x8128 = none := by decide

/-! ### Flow (vectors L2-A) -/

/-- A1. -/
theorem test_cls : after (regs [(15, 1)] (lit [(0, 0), (63, 31)] (at200 0x00E0)))
    (fun t => (t.display, t.getV 15, t.pc)) = some (Vector.replicate 32 0, 1, 0x202) := by decide
/-- A2. -/
theorem test_ret : after (stacked 1 0x206 (at200 0x00EE))
    (fun t => (t.pc, t.sp, t.stack[0])) = some (0x206, 0, 0x206) := by decide
/-- A3. -/
theorem test_ret_underflow : record (at200 0x00EE) = some (3, 0x00EE, 0x200, 0x202, 0x200) := by decide
/-- A5, A6. -/
theorem test_jp : after (at200 0x1ABC) (·.pc) = some 0xABC ∧ after (at200 0x1201) (·.pc) = some 0x201 := by decide
/-- A9. -/
theorem test_call : after (stacked 15 0x300 (at200 0x2300))
    (fun t => (t.stack[15], t.stack[14], t.sp, t.pc)) = some (0x202, 0x300, 16, 0x300) := by decide
/-- A10. -/
theorem test_call_overflow : record (stacked 16 0x202 (at200 0x2300)) =
    some (2, 0x2300, 0x200, 0x202, 0x200) := by decide
/-- A11, A12. -/
theorem test_se_imm : after (regs [(0, 3)] (at200 0x3003)) (·.pc) = some 0x204 ∧
    after (regs [(0, 4)] (at200 0x3003)) (·.pc) = some 0x202 := by decide
/-- A20. -/
theorem test_se_imm_top : after ((State.reset.setPc 0xFFC).withFetchWord 16 0x3000) (·.pc) = some 0x1000 := by
  decide
/-- A13, A14. -/
theorem test_sne_imm : after (regs [(0, 3)] (at200 0x4003)) (·.pc) = some 0x202 ∧
    after (regs [(0, 4)] (at200 0x4003)) (·.pc) = some 0x204 := by decide
/-- A15, and different registers. -/
theorem test_se_reg : after (regs [(1, 7), (2, 7)] (at200 0x5120)) (·.pc) = some 0x204 ∧
    after (regs [(1, 7), (2, 8)] (at200 0x5120)) (·.pc) = some 0x202 := by decide
/-- A18, A19. -/
theorem test_sne_reg : after (regs [(1, 7), (2, 7)] (at200 0x9120)) (·.pc) = some 0x202 ∧
    after (regs [(1, 7), (2, 8)] (at200 0x9120)) (·.pc) = some 0x204 := by decide

/-! ### Arithmetic and logic (vectors L1, L2-B) -/

/-- B1. -/
theorem test_ld_imm : after (at200 0x6A80) (fun t => (t.getV 0xA, t.pc)) = some (0x80, 0x202) := by decide
/-- B2, B3. -/
theorem test_add_imm : after (regs [(0, 1), (15, 7)] (at200 0x70FF)) (fun t => (t.getV 0, t.getV 15)) =
    some (0, 7) ∧ after (regs [(15, 0xFF)] (at200 0x7F01)) (·.getV 15) = some 0 := by decide
/-- B4. -/
theorem test_ld_reg : after (regs [(1, 0x0A)] (at200 0x8010)) (·.getV 0) = some 0x0A := by decide
/-- B6. -/
theorem test_or : after (regs [(0, 1), (1, 2), (15, 9)] (at200 0x8011)) (fun t => (t.getV 0, t.getV 15)) =
    some (3, 9) := by decide
/-- B7. -/
theorem test_and : after (regs [(0, 0x0C), (1, 0x0A)] (at200 0x8012)) (·.getV 0) = some 8 := by decide
/-- B8, B9. -/
theorem test_xor : after (regs [(0, 0x0C), (1, 0x0A)] (at200 0x8013)) (·.getV 0) = some 6 ∧
    after (regs [(0, 5)] (at200 0x8003)) (·.getV 0) = some 0 := by decide
/-- L1-2, B10. -/
theorem test_add_carry : after (regs [(0, 0xFF), (1, 1)] (at200 0x8014)) (fun t => (t.getV 0, t.getV 15)) =
    some (0, 1) ∧ after (regs [(0, 0xFE), (1, 1)] (at200 0x8014)) (fun t => (t.getV 0, t.getV 15)) =
    some (0xFF, 0) := by decide
/-- B13, B14: both values of VF_ORDER. -/
theorem test_add_vf : after (regs [(15, 0xFF), (1, 1)] (at200 0x8F14)) (·.getV 15) = some 1 ∧
    after (resultLast (regs [(15, 0xFF), (1, 1)] (at200 0x8F14))) (·.getV 15) = some 0 := by decide
/-- L1-3, B16. -/
theorem test_sub : after (regs [(0, 5), (1, 0x0A)] (at200 0x8015)) (fun t => (t.getV 0, t.getV 15)) =
    some (0xFB, 0) ∧ after (regs [(0, 0x0A), (1, 5)] (at200 0x8015)) (fun t => (t.getV 0, t.getV 15)) =
    some (5, 1) := by decide
/-- B17, B18. -/
theorem test_sub_vf : after (regs [(15, 3), (1, 5)] (at200 0x8F15)) (·.getV 15) = some 0 ∧
    after (resultLast (regs [(15, 3), (1, 5)] (at200 0x8F15))) (·.getV 15) = some 0xFE := by decide
/-- B20. -/
theorem test_shr : after (regs [(0, 0xFE), (1, 0xFF)] (at200 0x8016)) (fun t => (t.getV 0, t.getV 15)) =
    some (0x7F, 0) := by decide
/-- B21, B22. -/
theorem test_shr_vf : after (regs [(15, 0x81)] (at200 0x8F06)) (·.getV 15) = some 1 ∧
    after (resultLast (regs [(15, 0x81)] (at200 0x8F06))) (·.getV 15) = some 0x40 := by decide
/-- B23, and the example of R189. -/
theorem test_subn : after (regs [(0, 1), (1, 0)] (at200 0x8017)) (fun t => (t.getV 0, t.getV 15)) =
    some (0xFF, 0) ∧ after (regs [(0, 5), (1, 0x0A)] (at200 0x8017)) (fun t => (t.getV 0, t.getV 15)) =
    some (5, 1) := by decide
/-- B24. -/
theorem test_subn_vf : after (regs [(15, 5), (1, 3)] (at200 0x8F17)) (·.getV 15) = some 0 := by decide

/-! ### Index, jump with offset, random (vectors L2-C) -/

/-- C1. -/
theorem test_ld_i : after (at200 0xA123) (·.i) = some 0x123 := by decide
/-- C3. -/
theorem test_jp_v0 : after (regs [(0, 0xFF)] (at200 0xBFFF)) (·.pc) = some 0x10FE := by decide
/-- C4, C7, for the given random bytes. -/
theorem test_rnd_masked : (loadMasked 0x5A 3 0xF0 State.reset).getV 3 = 0x50 ∧
    (loadMasked 0xC3 15 0x0F State.reset).getV 15 = 3 := by decide
/-- C5, C6: the step masks its own free byte, whatever it is, and the next step has another. -/
theorem test_rnd_step : after (at200 0xC3F0) (fun t => (t.getV 3, t.rndIndex)) =
    some (Config.rnd 0 &&& 0xF0, 1) := by rfl

/-! ### Draw (vectors L2-D) -/

/-- D1: eight pixels, columns wrap. -/
theorem test_drw_wraps : after (bytes 0x300 [0xFF] ((regs [(0, 62), (1, 31)] (at200 0xD011)).setI 0x300))
    (fun t => (t.display[31], t.display[0], t.getV 15)) = some (0xC00000000000003F, 0, 0) := by decide
/-- D5: the coordinates are read from VF before VF is written; D3: a lit pixel under a 1 bit collides. -/
theorem test_drw_collides :
    after (lit [(2, 2)] (bytes 0x300 [0x80] ((regs [(15, 2)] (at200 0xDFF1)).setI 0x300)))
    (fun t => (t.display, t.getV 15)) = some (Vector.replicate 32 0, 1) := by decide
/-- D7: nothing is drawn when a row is outside memory. -/
theorem test_drw_outside : record ((at200 0xD012).setI 0xFFF) = some (4, 0xD012, 0x200, 0x1000, 0x200) ∧
    after (lit [(5, 0)] ((at200 0xD012).setI 0xFFF)) (fun t => t.display.pixel 5 0) = some true := by decide
/-- D6: N = 0. -/
theorem test_drw_no_rows : after (lit [(0, 0)] (regs [(15, 7)] (at200 0xD010)))
    (fun t => (t.display.pixel 0 0, t.getV 15)) = some (true, 0) := by decide

/-! ### Keypad (vectors L2-E) -/

/-- E1, E2. -/
theorem test_skp : after (pressed [3] (regs [(1, 3)] (at200 0xE19E))) (·.pc) = some 0x204 ∧
    after (regs [(1, 3)] (at200 0xE19E)) (·.pc) = some 0x202 := by decide
/-- E5. -/
theorem test_skp_out_of_range : record (regs [(0, 0x10)] (at200 0xE09E)) =
    some (6, 0xE09E, 0x200, 0x10, 0x200) := by decide
/-- E3, E4. -/
theorem test_sknp : after (pressed [3] (regs [(1, 3)] (at200 0xE1A1))) (·.pc) = some 0x202 ∧
    after (regs [(15, 0x0F)] (at200 0xEFA1)) (·.pc) = some 0x204 := by decide

/-! ### The FX family (vectors L2-F) -/

/-- F1, F2. -/
theorem test_read_dt : after ((at200 0xF107).setDt 9) (fun t => (t.getV 1, t.dt)) = some (9, 8) ∧
    after (at200 0xF007) (fun t => (t.getV 0, t.dt)) = some (0, 0) := by decide
/-- F4. -/
theorem test_key_lowest : after (pressed [0xC, 3] (at200 0xFF0A)) (fun t => (t.getV 15, t.pc)) =
    some (3, 0x202) := by decide
/-- F5. -/
theorem test_key_stall : after (((regs [(5, 0x99)] (at200 0xF50A)).setDt 1).setSt 1)
    (fun t => (t.pc, t.getV 5, t.dt, t.st, t.soundStop)) = some (0x200, 0x99, 0, 0, true) := by decide
/-- F6. -/
theorem test_write_dt : after (regs [(3, 3)] (at200 0xF315)) (·.dt) = some 2 := by decide
/-- F9, F8. -/
theorem test_write_st : after (regs [(0, 2)] (at200 0xF018)) (fun t => (t.st, t.soundActive)) = some (1, true) ∧
    after (regs [(0, 1)] (at200 0xF018)) (fun t => (t.st, t.soundStop)) = some (0, false) := by decide
/-- F10. -/
theorem test_write_st_stops : after ((at200 0xF018).setSt 5) (fun t => (t.st, t.soundStop)) =
    some (0, true) := by decide
/-- F13, F14. -/
theorem test_add_i : after ((regs [(1, 1)] (at200 0xF11E)).setI 0xFFF) (·.i) = some 0x1000 ∧
    after ((regs [(1, 2)] (at200 0xF11E)).setI 0xFFFF) (·.i) = some 1 := by decide
/-- F15, F16. -/
theorem test_font_address : after (regs [(0, 0x0A)] (at200 0xF029)) (·.i) = some 0x032 ∧
    after (regs [(1, 0xFF)] (at200 0xF129)) (·.i) = some 0x4FB := by decide
/-- F17. -/
theorem test_bcd : after ((regs [(0, 255)] (at200 0xF033)).setI 0x050)
    (fun t => (t.byteAt 0x050, t.byteAt 0x051, t.byteAt 0x052, t.byteAt 0x053, t.i)) =
    some (2, 5, 5, 0, 0x050) := by decide
/-- F18, F19. -/
theorem test_bcd_faults : record ((regs [(0, 255)] (at200 0xF033)).setI 0x04E) =
    some (5, 0xF033, 0x200, 0x04E, 0x200) ∧
    record ((regs [(0, 7)] (at200 0xF033)).setI 0xFFE) = some (4, 0xF033, 0x200, 0x1000, 0x200) := by decide
/-- F20. -/
theorem test_store : after ((regs [(0, 0x11), (1, 0x22), (2, 0x33), (3, 0x44)] (at200 0xF355)).setI 0x300)
    (fun t => ([0x300, 0x301, 0x302, 0x303, 0x304].map t.byteAt, t.i)) =
    some ([0x11, 0x22, 0x33, 0x44, 0], 0x300) := by decide
/-- F21: nothing is written. -/
theorem test_store_outside : after ((regs [(0, 1), (1, 2), (2, 3), (3, 4)] (at200 0xF355)).setI 0xFFD)
    (fun t => ([0xFFD, 0xFFE, 0xFFF].map t.byteAt, t.err.kind, t.err.info)) =
    some ([0, 0, 0], .outOfBounds, 0x1000) := by decide
/-- F23. -/
theorem test_load : after (bytes 0x300 [0xAB, 0xCD, 0xEF] ((regs [(2, 7)] (at200 0xF165)).setI 0x300))
    (fun t => (t.getV 0, t.getV 1, t.getV 2, t.i)) = some (0xAB, 0xCD, 7, 0x300) := by decide
/-- F24: the default font, and F25. -/
theorem test_load_font : after (at200 0xFF65) (·.v.toList) =
    some [0xF0, 0x90, 0x90, 0x90, 0xF0, 0x20, 0x60, 0x20, 0x20, 0x70, 0xF0, 0x10, 0xF0, 0x80, 0xF0, 0xF0] ∧
    record ((at200 0xF065).setI 0x1000) = some (4, 0xF065, 0x200, 0x1000, 0x200) := by decide

/-! ### Fetch, decode, halt, load (vectors L2-G, R352) -/

/-- G1, G2. -/
theorem test_fetch_outside : record (State.reset.setPc 0xFFF) = some (4, 0, 0xFFF, 0x1000, 0xFFF) ∧
    record (State.reset.setPc 0x1000) = some (4, 0, 0x1000, 0x1000, 0x1000) := by decide
/-- G3. -/
theorem test_fetch_odd : after (bytes 0x201 [0x60, 0x42] (State.reset.setPc 0x201))
    (fun t => (t.getV 0, t.pc)) = some (0x42, 0x203) := by decide
/-- G4. -/
theorem test_no_rom : record State.reset = some (1, 0, 0x200, 0, 0x200) := by decide
/-- G5. -/
theorem test_unmatched_nop : after (permissive ((at200 0x0123).setDt 2)) (fun t => (t.pc, t.dt, t.halted)) =
    some (0x202, 1, false) := by decide
/-- B25. -/
theorem test_unmatched_fatal : record (at200 0x8FFE) = some (1, 0x8FFE, 0x200, 0, 0x200) := by decide
/-- G6. -/
theorem test_halted : after { at200 0x8FFE with halted := true, dt := 5 } (fun t => (t.dt, t.pc)) =
    some (5, 0x200) := by decide
/-- R352: a ROM lands at 0x200, big-endian opcodes and all, and runs. -/
theorem test_load_rom : (nextOf (hostStep (.load [0x6A, 0x80]) State.reset)).bind
    (fun s => after s (fun t => (t.getV 0xA, t.pc))) = some (0x80, 0x202) := by decide
/-- R352: a second load has no move. -/
theorem test_second_load : ((nextOf (hostStep (.load []) State.reset)).map fun s =>
    (nextOf (hostStep (.load []) s)).isNone) = some true := by decide

/-! ### The mask table -/

/-- R120 and the encodings agree in their fixed digits, an instance of the family. -/
theorem pattern_of_draw : Laws.EncodingKeepsPattern.Statement (.drw 1 2 5) :=
  Laws.EncodingKeepsPattern.drw 1 2 5

/-! ### Witnesses: the hypotheses of each statement can be met, clause by clause, at the ends of their ranges -/

/-- ReachableStatesMeetTheInvariant, ResetMeetsTheInvariant. -/
theorem witness_reachable : Reachable State.reset ∧ State.reset.Inv := ⟨.reset _, by decide⟩
/-- ReachableStatesMeetTheInvariant: a move from a state that meets the invariant. -/
theorem witness_move : ∃ t, State.reset.Inv ∧ hostStep (.load [0x12, 0x00]) State.reset = .next t ∧ t.Inv :=
  ⟨_, by decide, rfl, by decide⟩
/-- EncodeOfDecodeIsIdentity: 8XY6 with a Y that the meaning ignores. -/
theorem witness_encode_of_decode : decodeWord 0x8126 = .ok (.shr 1 2) ∧ encode (.shr 1 2) = 0x8126 := by decide
/-- MaskRowsAreDisjoint: the row of 00EE fits 0x00EE, and the row of 00E0 does not. -/
theorem witness_mask_rows : (maskTable.map fun r => r.fits 0x00EE).take 3 = [false, true, false] := by decide
/-- StepRunsTheDecodedInstruction. -/
theorem witness_step_runs : (at200 0x6A80).Ready ∧ (at200 0x6A80).Holds (.ldImm 0xA 0x80) := by decide
/-- FetchIsBigEndianAndBounded: the last address of each clause. -/
theorem witness_fetch_last : (State.reset.setPc 0xFFE).pc.toNat ≤ 0xFFE ∧ 0xFFE < (State.reset.setPc 0xFFF).pc.toNat ∧
    (State.reset.setPc 0xFFF).Ready := by decide
/-- UnmatchedOpcodeFollowsParameter, Fatal. -/
theorem witness_unmatched_fatal : (at200 0x8FFE).Ready ∧ (at200 0x8FFE).pc.toNat ≤ 0xFFE ∧
    decodeWord (joinBytes ((at200 0x8FFE).byteAt 0x200) ((at200 0x8FFE).byteAt 0x201)) =
      .error (.unmatched .class8) ∧ (at200 0x8FFE).params.decodeUnmatched = .fatal := by decide
/-- UnmatchedOpcodeFollowsParameter, Nop. -/
theorem witness_unmatched_nop : (permissive (at200 0x0123)).Ready ∧
    decodeWord (joinBytes ((permissive (at200 0x0123)).byteAt 0x200) ((permissive (at200 0x0123)).byteAt 0x201)) =
      .error (.unmatched .class0) ∧ (permissive (at200 0x0123)).params.decodeUnmatched = .nop := by decide
/-- FatalErrorCommitsNothing, HaltedBlockWaitsForReset: a step that raises, and a move of a halted block. -/
theorem witness_halts : ∃ t u, (at200 0x00EE).halted = false ∧ step (at200 0x00EE) = .next t ∧ t.halted = true ∧
    hostStep (.setKeys (Vector.replicate 16 true)) t = .next u ∧ u.halted = true :=
  ⟨_, _, by decide, rfl, by decide, rfl, by decide⟩
/-- FatalErrorCommitsNothing: the fetch fails. -/
theorem witness_halts_at_fetch : ∃ t, step (State.reset.setPc 0xFFF) = .next t ∧ t.halted = true ∧ t.err.opcode = 0 :=
  ⟨_, rfl, by decide, by decide⟩
/-- EveryCompletedStepTicks, ProgramCounterMux, SoundStopMarksTheStepThatReachedZero, InvariantKeptByStep, FontIsImmutable:
a plain instruction, with st about to reach 0. -/
theorem witness_step : ∃ t, ((at200 0x6A80).setSt 1).Ready ∧ ((at200 0x6A80).setSt 1).Holds (.ldImm 0xA 0x80) ∧
    ((at200 0x6A80).setSt 1).Inv ∧ step ((at200 0x6A80).setSt 1) = .next t ∧ t.halted = false ∧
    t.soundStop = true ∧ t.pc = muxPc (.ldImm 0xA 0x80) ((at200 0x6A80).setSt 1) :=
  ⟨_, by decide, by decide, by decide, rfl, by decide, by decide, by decide⟩
/-- EveryCompletedStepTicks: the timers' own writers. -/
theorem witness_tick_written : ∃ t u, (regs [(3, 3)] (at200 0xF315)).Holds (.ldDtVx 3) ∧
    step (regs [(3, 3)] (at200 0xF315)) = .next t ∧ t.halted = false ∧ t.dt = 2 ∧
    (regs [(3, 3)] (at200 0xF318)).Holds (.ldStVx 3) ∧
    step (regs [(3, 3)] (at200 0xF318)) = .next u ∧ u.halted = false ∧ u.st = 2 :=
  ⟨_, _, by decide, rfl, by decide, by decide, by decide, rfl, by decide, by decide⟩
/-- EveryCompletedStepTicks: a step that writes no timer, with an unmatched opcode under Nop. -/
theorem witness_tick_nop : ∃ t, (permissive (at200 0x0123)).Ready ∧ step (permissive (at200 0x0123)) = .next t ∧
    t.halted = false ∧ (∀ x, ¬ (permissive (at200 0x0123)).Holds (.ldDtVx x)) ∧
    ∀ x, ¬ (permissive (at200 0x0123)).Holds (.ldStVx x) :=
  ⟨_, by decide, rfl, by decide, by decide, by decide⟩
/-- EveryServedStepAnswers. -/
theorem witness_served : State.reset.loadError = false := by decide
/-- OnlyListedRegistersAreWritten, OnlyStoredBytesChange: the two sides of the last stored byte of FX55. -/
theorem witness_frame_store : ∃ t, exec (.storeRegs 3) ((at200 0xF355).setI 0x300) = .next t ∧
    mayWrite (.storeRegs 3) ((at200 0xF355).setI 0x300) 0 = false ∧
    storesTo (.storeRegs 3) ((at200 0xF355).setI 0x300) 0x303 = true ∧
    storesTo (.storeRegs 3) ((at200 0xF355).setI 0x300) 0x304 = false :=
  ⟨_, rfl, by decide, by decide, by decide⟩
/-- OnlyListedRegistersAreWritten, OtherStateIsWrittenOnlyByItsInstructions: a flag-setting instruction and a register
outside its list. -/
theorem witness_frame_alu : ∃ t, exec (.addReg 1 2) State.reset = .next t ∧
    mayWrite (.addReg 1 2) State.reset 15 = true ∧ mayWrite (.addReg 1 2) State.reset 2 = false :=
  ⟨_, rfl, by decide, by decide⟩
/-- KindsRaisedByEachInstruction: each kind that an execute phase raises. -/
theorem witness_kinds : ∃ a b c d e, exec (.call 0x300) (stacked 16 0x202 State.reset) = .next a ∧
    exec .ret State.reset = .next b ∧ exec (.ldB 0) (State.reset.setI 0xFFE) = .next c ∧
    exec (.ldB 0) (State.reset.setI 0x04F) = .next d ∧ exec (.skp 0) (regs [(0, 16)] State.reset) = .next e ∧
    [a, b, c, d, e].map (fun t : State => (t.halted, t.err.kind)) =
      [(true, .stackOverflow), (true, .stackUnderflow), (true, .outOfBounds), (true, .fontWrite),
       (true, .keyOutOfRange)] := ⟨_, _, _, _, _, rfl, rfl, rfl, rfl, rfl, by decide⟩
/-- ReturnPopsTheStack: sp = 1 and sp = 0. -/
theorem witness_return : 0 < (stacked 1 0x206 State.reset).sp.val ∧ State.reset.sp.val = 0 := by decide
/-- CallPushesTheReturnAddress: sp = 15 and sp = 16. -/
theorem witness_call : (stacked 15 0x206 State.reset).sp.val < 16 ∧ (stacked 16 0x206 State.reset).sp.val = 16 := by
  decide
/-- CallThenReturnRoundTrip, with the last free slot. -/
theorem witness_call_return : ∃ t, (stacked 15 0x206 State.reset).sp.val < 16 ∧
    exec (.call 0x300) (stacked 15 0x206 State.reset) = .next t ∧ t.sp.val = 16 := ⟨_, by decide, rfl, by decide⟩
/-- OnlyRandomUsesTheRandomInput. -/
theorem witness_not_random : ∃ t, (∀ x nn, Instr.cls ≠ .rnd x nn) ∧ exec .cls State.reset = .next t :=
  ⟨_, fun _ _ h => Instr.noConfusion h, rfl⟩
/-- DrawXorsTheSprite: N = 0, and a sprite that ends with memory. -/
theorem witness_draw_inside : ((0 : Nibble).toNat = 0 ∨ indexBase (State.reset.setI 0xFFFF) + 0 ≤ 0x1000) ∧
    indexBase (State.reset.setI 0xFFB) + (5 : Nibble).toNat ≤ 0x1000 := by decide
/-- DrawOutsideMemoryRaises: one byte too far. -/
theorem witness_draw_outside : (5 : Nibble).toNat ≠ 0 ∧
    0x1000 < indexBase (State.reset.setI 0xFFC) + (5 : Nibble).toNat := by decide
/-- DrawTwiceRestoresTheDisplay: the glyph of 0 on an empty display, twice. -/
theorem witness_draw_twice : ∃ t w, State.reset.halted = false ∧ exec (.drw 0 1 5) State.reset = .next t ∧
    t.halted = false ∧ t.mem = State.reset.mem ∧ t.params = State.reset.params ∧ t.i = State.reset.i ∧
    t.getV 0 = State.reset.getV 0 ∧ t.getV 1 = State.reset.getV 1 ∧ exec (.drw 0 1 5) t = .next w ∧
    t.display.pixel 0 0 = true ∧ w.getV Reg.vf = 1 :=
  ⟨_, _, by decide, rfl, by decide, rfl, rfl, rfl, by decide, by decide, rfl, by decide, by decide⟩
/-- KeySkips: key 15 and the index 16. -/
theorem witness_keys : ((regs [(0, 15)] State.reset).getV 0).toNat < 16 ∧
    16 ≤ ((regs [(0, 16)] State.reset).getV 0).toNat := by decide
/-- BinaryCodedDecimal: the lowest and the highest place. -/
theorem witness_bcd : (0x50 ≤ indexBase (State.reset.setI 0x050) ∧ indexBase (State.reset.setI 0x050) + 2 ≤ 0xFFF) ∧
    0x50 ≤ indexBase (State.reset.setI 0xFFD) ∧ indexBase (State.reset.setI 0xFFD) + 2 ≤ 0xFFF := by decide
/-- BlockStore, StoreThenLoadRestoresRegisters: the lowest and the highest place of four bytes. -/
theorem witness_store : (0x50 ≤ indexBase (State.reset.setI 0x050) ∧ indexBase (State.reset.setI 0x050) + 3 ≤ 0xFFF) ∧
    0x50 ≤ indexBase (State.reset.setI 0xFFC) ∧ indexBase (State.reset.setI 0xFFC) + (3 : Reg).val ≤ 0xFFF := by decide
/-- BlockWriteRaisesAtFirstFailingAddress: the last font byte; one byte too far for FX33 and for F355; above memory. -/
theorem witness_block_write : indexBase (State.reset.setI 0x04F) ≤ 0x04F ∧
    0xFFF < indexBase (State.reset.setI 0xFFE) + 2 ∧ 0xFFF < indexBase (State.reset.setI 0xFFD) + (3 : Reg).val ∧
    0xFFF < indexBase (State.reset.setI 0xFFFF) + (0 : Reg).val := by decide
/-- BlockLoad: the last byte of memory, and one too far. -/
theorem witness_block_load : indexBase (State.reset.setI 0xFFF) + (0 : Reg).val ≤ 0xFFF ∧
    0xFFF < indexBase (State.reset.setI 0xFFF) + (1 : Reg).val := by decide
/-- StoreThenLoadRestoresRegisters. -/
theorem witness_store_load : ∃ t w, exec (.storeRegs 3) (regs [(3, 7)] (State.reset.setI 0xFFC)) = .next t ∧
    exec (.loadRegs 3) (t.setV 3 0) = .next w ∧ (t.setV 3 0).mem = t.mem ∧ (t.setV 3 0).params = t.params ∧
    (t.setV 3 0).i = t.i ∧ w.getV 3 = 7 := ⟨_, _, rfl, rfl, rfl, rfl, rfl, by decide⟩
/-- KeyWait: key 15 alone, and no key. -/
theorem witness_key_wait : ((pressed [15] State.reset).keys[15] = true ∧
    ∀ j : Fin 16, j < 15 → (pressed [15] State.reset).keys[j.val] = false) ∧
    ∀ k : Fin 16, State.reset.keys[k.val] = false := by decide
/-- StalledStepTicks. -/
theorem witness_stalled : (at200 0xF50A).Ready ∧ (at200 0xF50A).Holds (.ldVxK 5) ∧
    ∀ k : Fin 16, (at200 0xF50A).keys[k.val] = false := by decide
/-- RomLoad: the longest ROM that fits, the shortest that does not, and a closed window. -/
theorem witness_rom : State.reset.loadOpen = true ∧ (List.replicate 3584 (0 : Byte)).length ≤ 3584 ∧
    3584 < (List.replicate 3585 (0 : Byte)).length ∧ { State.reset with loadOpen := false }.loadOpen = false ∧
    { State.reset with loadOpen := false }.halted = false := by
  rw [List.length_replicate, List.length_replicate]
  decide

end Sys2Proof.Tests
end

section
/-! SUPPORT. The write-back of a result and a flag (41_alu.md R190), and the shift that uses it (R188). -/

namespace Sys2Proof.Machine

/-- The shared write-back meets its statement, for every result and flag, under both values of VF_ORDER. -/
theorem writeResultAndFlag_resultAndFlag (x : Reg) (r : Byte) (f : Bool) (s : State) :
    ResultAndFlag x r.toNat (flagByte f).toNat s (writeResultAndFlag x r f s) := by
  refine ⟨⟨writeResultAndFlag_rest x r f s, ?frame⟩, ?distinct, ?same⟩
  case frame =>
    intro q hq
    obtain ⟨hx, hvf⟩ := not_or.mp hq
    simp [writeResultAndFlag_getV, hx, hvf]
  case distinct =>
    intro hx
    simp [writeResultAndFlag_getV, hx]
  case same =>
    rintro rfl
    cases hv : s.params.vfOrder <;> simp [writeResultAndFlag_getV, hv]

/-- The bit 8XY6 shifts out, as a number (R34). -/
theorem flagByte_shiftedOutFlag_toNat (a : Byte) : (flagByte (shiftedOutFlag a)).toNat = a.toNat % 2 := by
  rw [flagByte_toNat, shiftedOutFlag, ← BitVec.testBit_toNat, Nat.testBit_zero]
  rcases Nat.mod_two_eq_zero_or_one a.toNat with h | h <;> simp [h]

/-- 8XY6 writes back half of VX and its low bit; Y plays no part. -/
theorem exec_shr (x y : Reg) (s : State) :
    exec (.shr x y) s = .next (writeResultAndFlag x (s.getV x >>> 1) (shiftedOutFlag (s.getV x)) s) := rfl

/-- Settles O37: the shared write-back, with the shifted value read as VX / 2 and the bit shifted out as VX mod 2. -/
theorem shiftRightSetsBitOut : Obligations.ShiftRightSetsBitOut := by
  intro x y s
  have hhalf : (s.getV x >>> 1).toNat = (s.getV x).toNat / 2 := by
    rw [BitVec.toNat_ushiftRight, Nat.shiftRight_one]
  refine ⟨_, exec_shr x y s, ?_⟩
  rw [← hhalf, ← flagByte_shiftedOutFlag_toNat]
  exact writeResultAndFlag_resultAndFlag x _ _ s

end Sys2Proof.Machine
end

section
/-! SUPPORT. Display clear, jump and the skips on registers (40_flow.md R150, R152, R154-R158). -/

namespace Sys2Proof.Machine

/-! ### Display clear -/

/-- 00E0 writes the cleared display. -/
theorem exec_cls (s : State) : exec .cls s = .next (s.setDisplay Display.clear) := rfl

/-- A display write leaves every other field. -/
theorem State.setDisplay_rest (s : State) (d : Display) : { s.setDisplay d with display := s.display } = s := rfl

/-- D[p] of a state whose display was cleared is 0, for every p. -/
theorem State.pixelAt_setDisplay_clear (s : State) (p : Nat) : (s.setDisplay Display.clear).pixelAt p = false :=
  Display.pixel_clear (p % 64) (p / 64)

/-- Settles O26: the pixels by the law of the cleared display, the rest by the frame of a display write. -/
theorem clearDisplayZeroesEveryPixel : Obligations.ClearDisplayZeroesEveryPixel := fun s =>
  ⟨_, exec_cls s, fun q _ => s.pixelAt_setDisplay_clear q, s.setDisplay_rest _⟩

/-! ### Instructions that write pc alone -/

/-- A write of pc leaves every other field. -/
theorem State.setPc_rest (s : State) (w : Word) : { s.setPc w with pc := s.pc } = s := rfl

/-- The address field as a word keeps its value (R113). -/
theorem addrOperand_toNat (nnn : Addr) : (addrOperand nnn).toNat = nnn.toNat :=
  BitVec.toNat_setWidth_of_le (by decide)

/-- 1NNN writes its address to pc. -/
theorem exec_jp (nnn : Addr) (s : State) : exec (.jp nnn) s = .next (s.setPc (addrOperand nnn)) := rfl

/-- Settles O28: the value by the width of the address field, the rest by the frame of a pc write. -/
theorem jumpSetsThePc : Obligations.JumpSetsThePc := fun nnn s =>
  ⟨_, exec_jp nnn s, addrOperand_toNat nnn, s.setPc_rest _⟩

/-! ### Skips -/

/-- A skip on equal bytes (R158). -/
theorem State.skipIf_beq (s : State) (a b : Byte) :
    s.skipIf (a == b) = s.setPc (if a = b then s.pc + 2 else s.pc) := by
  simp only [State.skipIf_eq, beq_iff_eq]

/-- A skip on unequal bytes (R158). -/
theorem State.skipIf_bne (s : State) (a b : Byte) :
    s.skipIf (a != b) = s.setPc (if a = b then s.pc else s.pc + 2) := by
  simp only [State.skipIf_eq, bne_iff_ne, ite_not]

theorem exec_seImm (x : Reg) (nn : Byte) (s : State) :
    exec (.seImm x nn) s = .next (s.setPc (if s.getV x = nn then s.pc + 2 else s.pc)) :=
  congrArg Host.Outcome.next (s.skipIf_beq (s.getV x) nn)

theorem exec_sneImm (x : Reg) (nn : Byte) (s : State) :
    exec (.sneImm x nn) s = .next (s.setPc (if s.getV x = nn then s.pc else s.pc + 2)) :=
  congrArg Host.Outcome.next (s.skipIf_bne (s.getV x) nn)

theorem exec_seReg (x y : Reg) (s : State) :
    exec (.seReg x y) s = .next (s.setPc (if s.getV x = s.getV y then s.pc + 2 else s.pc)) :=
  congrArg Host.Outcome.next (s.skipIf_beq (s.getV x) (s.getV y))

theorem exec_sneReg (x y : Reg) (s : State) :
    exec (.sneReg x y) s = .next (s.setPc (if s.getV x = s.getV y then s.pc else s.pc + 2)) :=
  congrArg Host.Outcome.next (s.skipIf_bne (s.getV x) (s.getV y))

/-- Settles O31: both skips are a pc write of the conditional address. -/
theorem immediateSkips : Obligations.ImmediateSkips := fun x nn s =>
  ⟨⟨_, exec_seImm x nn s, s.setPc_rest _, s.setPc_pc _⟩,
   ⟨_, exec_sneImm x nn s, s.setPc_rest _, s.setPc_pc _⟩⟩

/-- Settles O32: as for the immediate skips, with the second register in place of the constant. -/
theorem registerSkips : Obligations.RegisterSkips := fun x y s =>
  ⟨⟨_, exec_seReg x y s, s.setPc_rest _, s.setPc_pc _⟩,
   ⟨_, exec_sneReg x y s, s.setPc_rest _, s.setPc_pc _⟩⟩

end Sys2Proof.Machine
end

section
/-! SUPPORT. Writes of one register: load and add immediate (41_alu.md R180, R181). -/

namespace Sys2Proof.Machine

/-- A register write changes no other register and no other field. -/
theorem State.onlyRegs_setV (s : State) (x : Reg) (b : Byte) : OnlyRegs (fun r => r = x) s (s.setV x b) :=
  ⟨rfl, fun _ hr => s.getV_setV_ne b (Ne.symm hr)⟩

/-- 6XNN writes its constant to VX. -/
theorem exec_ldImm (x : Reg) (nn : Byte) (s : State) : exec (.ldImm x nn) s = .next (s.setV x nn) := rfl

/-- 7XNN writes the 8-bit sum to VX. -/
theorem exec_addImm (x : Reg) (nn : Byte) (s : State) :
    exec (.addImm x nn) s = .next (s.setV x (s.getV x + nn)) := rfl

/-- Settles O33: both are a write of VX alone; the sum of two bytes wraps at 2 ^ 8. -/
theorem immediateLoadAndAdd : Obligations.ImmediateLoadAndAdd := by
  intro x nn s
  refine ⟨⟨_, exec_ldImm x nn s, s.onlyRegs_setV x nn, s.getV_setV_self x nn⟩,
    ⟨_, exec_addImm x nn s, s.onlyRegs_setV x _, ?_⟩⟩
  rw [State.getV_setV_self]
  exact BitVec.toNat_add (s.getV x) nn

end Sys2Proof.Machine
end

section
/-! SUPPORT. Writes of the index register: load index (42_index_jump_random.md R220). -/

namespace Sys2Proof.Machine

/-- A write of I leaves every other field. -/
theorem State.setI_rest (s : State) (w : Word) : { s.setI w with i := s.i } = s := rfl

/-- ANNN writes its address to I. -/
theorem exec_ldI (nnn : Addr) (s : State) : exec (.ldI nnn) s = .next (s.setI (addrOperand nnn)) := rfl

/-- Settles O39: the value by the width of the address field, the rest by the frame of a write of I. -/
theorem loadIndex : Obligations.LoadIndex := fun nnn s =>
  ⟨_, exec_ldI nnn s, addrOperand_toNat nnn, s.setI_rest _⟩

end Sys2Proof.Machine
end

section
/-! SUPPORT. FX07 and FX0A, which write one register (45_misc_f.md R270, R271). -/

namespace Sys2Proof.Machine

/-! ### Reading the delay timer -/

/-- FX07 writes dt, as the execute phase finds it, to VX. -/
theorem exec_ldVxDt (x : Reg) (s : State) : exec (.ldVxDt x) s = .next (s.setV x s.dt) := rfl

/-- Settles O47: a write of VX alone, of the timer before the tick. -/
theorem readDelayTimer : Obligations.ReadDelayTimer := fun x s =>
  ⟨_, exec_ldVxDt x s, s.onlyRegs_setV x s.dt, s.getV_setV_self x s.dt⟩

/-! ### Key wait -/

/-- FX0A writes the key its scan finds to VX. -/
theorem exec_ldVxK_of_pressed {s : State} {k : Nat} (x : Reg) (h : lowestPressed s.keys.toList = some k) :
    exec (.ldVxK x) s = .next (s.setV x (BitVec.ofNat 8 k)) := by
  simp only [exec, execLdVxK, h]

/-- FX0A stalls when its scan finds no key. -/
theorem exec_ldVxK_of_no_key {s : State} (x : Reg) (h : lowestPressed s.keys.toList = none) :
    exec (.ldVxK x) s = .next s.rewind := by
  simp only [exec, execLdVxK, h]

/-- The scan of the keypad finds the pressed key below which none is pressed. -/
theorem lowestPressed_keys_eq_some {s : State} {k : Fin 16} (hk : s.keys[k.val] = true)
    (hlow : ∀ j : Fin 16, j < k → s.keys[j.val] = false) : lowestPressed s.keys.toList = some k.val := by
  refine lowestPressed_some.mpr ⟨by simp [hk], fun j hj => ?_⟩
  have hj16 : j < 16 := hj.trans k.isLt
  simp [hj16, hlow ⟨j, hj16⟩ hj]

/-- The scan of a keypad with no pressed key finds none. -/
theorem lowestPressed_keys_eq_none {s : State} (h : ∀ k : Fin 16, s.keys[k.val] = false) :
    lowestPressed s.keys.toList = none := by
  refine lowestPressed_none.mpr fun b hb => ?_
  obtain ⟨k, hk, rfl⟩ := Vector.mem_iff_getElem.mp (Vector.mem_toList_iff.mp hb)
  exact h ⟨k, hk⟩

/-- Settles O56: what the scan finds decides between the write of VX and the stall, which is a pc write. -/
theorem keyWait : Obligations.KeyWait := by
  refine fun x s => ⟨fun k hk hlow => ?pressed, fun hnone => ?stalled⟩
  case pressed =>
    refine ⟨_, exec_ldVxK_of_pressed x (lowestPressed_keys_eq_some hk hlow), s.onlyRegs_setV x _, ?_⟩
    rw [State.getV_setV_self]
    exact Nat.mod_eq_of_lt (k.isLt.trans (by decide))
  case stalled =>
    exact ⟨_, exec_ldVxK_of_no_key x (lowestPressed_keys_eq_none hnone), s.rewind_pc, s.setPc_rest _⟩

end Sys2Proof.Machine
end

section
/-! SUPPORT. What a step that raises nothing did, and the timers along it (60_exceptions.md R330; 45_misc_f.md R280,
R281; 10_state.md R46, R47). -/

namespace Sys2Proof.Machine

/-! ### Steps that raise nothing -/

/-- At most one instruction stands at pc. -/
theorem State.Holds.unique {s : State} {i j : Instr} (hi : s.Holds i) (hj : s.Holds j) : i = j :=
  Except.ok.inj (hi.2.symm.trans hj.2)

/-- The end of a step neither raises nor clears a fatal error. -/
@[simp] theorem endStep_halted (st0 : Byte) (s : State) : (endStep st0 s).halted = s.halted := by
  cases h : s.halted with
  | true => rw [endStep_of_halted h, h]
  | false => rw [endStep_of_running h, tick_halted, h]

/-- An unmatched opcode leaves a running block only under Nop, and then the step ends on the fetched state. -/
theorem unmatchedOpcode_of_running {s : State} {op : Word} (h : (unmatchedOpcode s op).halted = false) :
    unmatchedOpcode s op = endStep s.st s.advance := by
  cases hp : s.params.decodeUnmatched with
  | fatal => simp [unmatchedOpcode, hp] at h
  | nop => simp [unmatchedOpcode, hp]

/-- A served step that raises nothing ends (with the tick) on what the execute phase of the instruction at pc left, or,
where no instruction stands at pc, on the fetched state. -/
theorem completedStep_cases {s t : State} (hs : s.Ready) (h : step s = .next t) (ht : t.halted = false) :
    ∃ u, u.halted = false ∧ t = endStep s.st u ∧
      ((∃ i, s.Holds i ∧ exec i s.advance = .next u) ∨ (∀ i, ¬ s.Holds i) ∧ u = s.advance) := by
  obtain ⟨hh, -⟩ | ⟨-, -, ⟨-, rfl⟩ | ⟨hpc, ⟨e, hd, rfl⟩ | ⟨i, u, hd, he, rfl⟩⟩⟩ := step_cases h
  · exact absurd (hh.symm.trans hs.1) Bool.noConfusion
  · exact absurd ht Bool.noConfusion
  · refine ⟨s.advance, hs.1, unmatchedOpcode_of_running ht, .inr ⟨fun i hi => ?_, rfl⟩⟩
    cases hd.symm.trans hi.2
  · exact ⟨u, (endStep_halted s.st u).symm.trans ht, rfl, .inl ⟨i, ⟨hpc, hd⟩, he⟩⟩

/-! ### The tick -/

/-- The delay timer at the end of a completed step. -/
theorem endStep_dt_toNat {u : State} (st0 : Byte) (h : u.halted = false) :
    (endStep st0 u).dt.toNat = u.dt.toNat - 1 := by
  rw [endStep_of_running h]
  exact ticked_toNat u.dt

/-- The sound timer at the end of a completed step. -/
theorem endStep_st_toNat {u : State} (st0 : Byte) (h : u.halted = false) :
    (endStep st0 u).st.toNat = u.st.toNat - 1 := by
  rw [endStep_of_running h]
  exact ticked_toNat u.st

/-! ### Shared operations leave the timers -/

/-- The delay timer and the sound timer. -/
def State.timers (s : State) : Byte × Byte := (s.dt, s.st)

theorem State.skipIf_timers (s : State) (c : Bool) : (s.skipIf c).timers = s.timers := by
  rw [s.skipIf_eq]
  rfl

theorem writeResultAndFlag_timers (x : Reg) (r : Byte) (f : Bool) (s : State) :
    (writeResultAndFlag x r f s).timers = s.timers :=
  (congrArg State.timers (writeResultAndFlag_rest x r f s) :)

theorem loadRegsFrom_timers (bs : List Byte) (s : State) (k : Nat) : (loadRegsFrom s k bs).timers = s.timers :=
  (congrArg State.timers (loadRegsFrom_rest bs s k) :)

theorem push_timers {s u : State} {w : Word} (h : push s w = .ok u) : u.timers = s.timers := by
  by_cases hsp : s.sp.val < 16
  · rw [push_ok w hsp] at h
    cases h
    rfl
  · rw [push_full w (by omega)] at h
    cases h

theorem pop_timers {s : State} {r : Word × State} (h : pop s = .ok r) : r.2.timers = s.timers := by
  by_cases hsp : s.sp.val = 0
  · rw [pop_empty hsp] at h
    cases h
  · rw [pop_ok (by omega)] at h
    cases h
    rfl

theorem writeBlock_timers {bs : List Byte} {s u : State} {a : Nat} (h : writeBlock s a bs = .ok u) :
    u.timers = s.timers := by
  rw [(writeBlock_cases h).1]
  rfl

/-- A phase that may raise leaves the timers when its own state does: the fatal-error entry takes them from the start of
the step, where they are as after the fetch. -/
theorem commit_timers {i : Instr} {s t : State} {e : Except Raise State} (h : commit i s e = .next t)
    (he : ∀ u, e = .ok u → u.timers = s.timers) : t.timers = s.timers := by
  obtain hok | ⟨r, -, rfl⟩ := commit_cases h
  · exact he t hok
  · rfl

/-- As `commit_timers`, for a phase that first computes a value and then makes its state of it. -/
theorem commit_map_timers {α : Type} {i : Instr} {s t : State} {e : Except Raise α} {f : α → State}
    (h : commit i s (e.map f) = .next t) (he : ∀ a, e = .ok a → (f a).timers = s.timers) : t.timers = s.timers := by
  refine commit_timers h fun u hu => ?_
  cases e with
  | error r => cases hu
  | ok a => cases hu; exact he a rfl

/-! ### The timers over all instructions -/

/-- What the execute phase of an instruction leaves in the timers (R46, R47): FX15 and FX18 write one each. -/
def timersAfter (i : Instr) (s : State) : Byte × Byte :=
  match i with
  | .ldDtVx x => (s.getV x, s.st)
  | .ldStVx x => (s.dt, s.getV x)
  | _ => s.timers

theorem timersAfter_fst_of_ne {i : Instr} (s : State) (h : ∀ x, i ≠ .ldDtVx x) : (timersAfter i s).1 = s.dt := by
  unfold timersAfter
  split
  · next x => exact absurd rfl (h x)
  · rfl
  · rfl

theorem timersAfter_snd_of_ne {i : Instr} (s : State) (h : ∀ x, i ≠ .ldStVx x) : (timersAfter i s).2 = s.st := by
  unfold timersAfter
  split
  · rfl
  · next x => exact absurd rfl (h x)
  · rfl

/-- No execute phase, not even one that raises, leaves other timers than the table says. -/
theorem exec_timers {i : Instr} {s t : State} (h : exec i s = .next t) : t.timers = timersAfter i s := by
  cases i with
  | ret => exact commit_map_timers h fun _ hr => pop_timers hr
  | call nnn => exact commit_map_timers h fun _ hu => (push_timers hu :)
  | skp x | sknp x => exact commit_map_timers h fun _ _ => s.skipIf_timers _
  | drw x y n => exact commit_map_timers h fun _ _ => rfl
  | loadRegs x => exact commit_map_timers h fun bs _ => loadRegsFrom_timers bs s 0
  | ldB x | storeRegs x => exact commit_timers h fun _ hu => writeBlock_timers hu
  | seImm x nn | sneImm x nn => cases h; exact s.skipIf_timers _
  | seReg x y | sneReg x y => cases h; exact s.skipIf_timers _
  | addReg x y | subReg x y | shr x y | subnReg x y => cases h; exact writeResultAndFlag_timers x _ _ s
  | ldVxK x =>
    cases hk : lowestPressed s.keys.toList with
    | some k => rw [exec_ldVxK_of_pressed x hk] at h; cases h; rfl
    | none => rw [exec_ldVxK_of_no_key x hk] at h; cases h; rfl
  | _ => cases h; rfl

/-- Settles O15: the tick takes one from what the execute phase left, which is VX in the timer that FX15 or FX18 writes
and otherwise the value at the start; where no instruction stands at pc, the execute phase left the fetched state. -/
theorem everyCompletedStepTicks : Obligations.EveryCompletedStepTicks := by
  intro s t hs h ht
  obtain ⟨u, hu, rfl, hexec⟩ := completedStep_cases hs h ht
  rw [endStep_dt_toNat s.st hu, endStep_st_toNat s.st hu]
  obtain ⟨i, hi, he⟩ | ⟨hnone, rfl⟩ := hexec
  · have hdt : u.dt = (timersAfter i s.advance).1 := congrArg Prod.fst (exec_timers he)
    have hst : u.st = (timersAfter i s.advance).2 := congrArg Prod.snd (exec_timers he)
    rw [hdt, hst]
    refine ⟨fun x hx => ?_, fun hne => ?_, fun x hx => ?_, fun hne => ?_⟩
    · rw [hi.unique hx, timersAfter, State.getV_advance]
    · rw [timersAfter_fst_of_ne s.advance fun x e => hne x (e ▸ hi), State.advance_dt]
    · rw [hi.unique hx, timersAfter, State.getV_advance]
    · rw [timersAfter_snd_of_ne s.advance fun x e => hne x (e ▸ hi), State.advance_st]
  · exact ⟨fun x hx => absurd hx (hnone _), fun _ => rfl, fun x hx => absurd hx (hnone _), fun _ => rfl⟩

end Sys2Proof.Machine
end

section
/-! SUPPORT. The decoder and the encoder are inverse to each other (30_encoding.md R112, R113, R120). -/

namespace Sys2Proof

/-! ### Fields of encoded words -/

@[simp] theorem opClass_encNNN (c : Nibble) (nnn : Addr) : opClass (encNNN c nnn) = c := by
  apply BitVec.eq_of_toNat_eq
  rw [opClass_toNat, encNNN_toNat]
  omega

@[simp] theorem opNNN_encNNN (c : Nibble) (nnn : Addr) : opNNN (encNNN c nnn) = nnn := by
  apply BitVec.eq_of_toNat_eq
  rw [opNNN_toNat, encNNN_toNat]
  omega

@[simp] theorem opClass_encXNN (c : Nibble) (x : Reg) (nn : Byte) : opClass (encXNN c x nn) = c := by
  apply BitVec.eq_of_toNat_eq
  rw [opClass_toNat, encXNN_toNat]
  omega

@[simp] theorem opX_encXNN (c : Nibble) (x : Reg) (nn : Byte) : opX (encXNN c x nn) = x := by
  apply Fin.ext
  rw [opX_val, encXNN_toNat]
  omega

@[simp] theorem opNN_encXNN (c : Nibble) (x : Reg) (nn : Byte) : opNN (encXNN c x nn) = nn := by
  apply BitVec.eq_of_toNat_eq
  rw [opNN_toNat, encXNN_toNat]
  omega

@[simp] theorem opClass_encXYN (c : Nibble) (x y : Reg) (n : Nibble) : opClass (encXYN c x y n) = c := by
  apply BitVec.eq_of_toNat_eq
  rw [opClass_toNat, encXYN_toNat]
  omega

@[simp] theorem opX_encXYN (c : Nibble) (x y : Reg) (n : Nibble) : opX (encXYN c x y n) = x := by
  apply Fin.ext
  rw [opX_val, encXYN_toNat]
  omega

@[simp] theorem opY_encXYN (c : Nibble) (x y : Reg) (n : Nibble) : opY (encXYN c x y n) = y := by
  apply Fin.ext
  rw [opY_val, encXYN_toNat]
  omega

@[simp] theorem opN_encXYN (c : Nibble) (x y : Reg) (n : Nibble) : opN (encXYN c x y n) = n := by
  apply BitVec.eq_of_toNat_eq
  rw [opN_toNat, encXYN_toNat]
  omega

/-! ### Decode after encode -/

/-- The decoder reads back every field the encoder wrote. -/
theorem decodeWord_encode (i : Instr) : decodeWord (encode i) = .ok i := by
  cases i with
  | cls | ret => rfl
  | jp | call | ldI | jpV0 => simp [encode, decodeWord]
  | seImm | sneImm | ldImm | addImm | rnd => simp [encode, decodeWord]
  | drw => simp [encode, decodeWord]
  | seReg => simp [encode, decodeWord, decode5]
  | sneReg => simp [encode, decodeWord, decode9]
  | ldReg | orReg | andReg | xorReg | addReg | subReg | shr | subnReg => simp [encode, decodeWord, decode8]
  | skp | sknp => simp [encode, decodeWord, decodeE]
  | ldVxDt | ldDtVx | ldStVx | addI | ldF | ldB | storeRegs | loadRegs | ldVxK =>
    simp [encode, decodeWord, decodeF]

/-- The bytes of an instruction decode to it and leave the rest. -/
theorem decodeBytes_encodeBytes_append (i : Instr) (rest : List Byte) :
    decodeBytes (encodeBytes i ++ rest) = .ok (i, rest) := by
  simp only [encodeBytes, List.cons_append, List.nil_append, decodeBytes, joinBytes_highByte_lowByte,
    decodeWord_encode]

/-- Settles O4: on words field by field, on bytes since the two bytes of a word joined are the word. -/
theorem decodeOfEncodeIsIdentity : Obligations.DecodeOfEncodeIsIdentity := fun i =>
  ⟨decodeWord_encode i, decodeBytes_encodeBytes_append i⟩

/-! ### Encode after decode -/

/-- A word is its class nibble and its address field. -/
theorem encNNN_fields {op : Word} {c : Nibble} (hc : (opClass op).toNat = c.toNat) :
    encNNN c (opNNN op) = op := by
  apply BitVec.eq_of_toNat_eq
  rw [opClass_toNat] at hc
  rw [encNNN_toNat, opNNN_toNat]
  omega

/-- A word is its class nibble, X and its low byte. -/
theorem encXNN_fields {op : Word} {c : Nibble} {nn : Byte} (hc : (opClass op).toNat = c.toNat)
    (hnn : (opNN op).toNat = nn.toNat) : encXNN c (opX op) nn = op := by
  apply BitVec.eq_of_toNat_eq
  rw [opClass_toNat] at hc
  rw [opNN_toNat] at hnn
  rw [encXNN_toNat, opX_val]
  omega

/-- A word is its class nibble, X, Y and its low nibble. -/
theorem encXYN_fields {op : Word} {c n : Nibble} (hc : (opClass op).toNat = c.toNat)
    (hn : (opN op).toNat = n.toNat) : encXYN c (opX op) (opY op) n = op := by
  apply BitVec.eq_of_toNat_eq
  rw [opClass_toNat] at hc
  rw [opN_toNat] at hn
  rw [encXYN_toNat, opX_val, opY_val]
  omega

theorem encode_of_decode0 {op : Word} {i : Instr} (hc : (opClass op).toNat = 0x0) (h : decode0 op = .ok i) :
    encode i = op := by
  unfold decode0 at h
  rw [opClass_toNat] at hc
  split at h
  case h_3 => cases h
  all_goals
    next hnnn =>
      cases h
      rw [opNNN_toNat] at hnnn
      apply BitVec.eq_of_toNat_eq
      simp only [encode, BitVec.reduceToNat]
      omega

theorem encode_of_decode5 {op : Word} {i : Instr} (hc : (opClass op).toNat = 0x5) (h : decode5 op = .ok i) :
    encode i = op := by
  unfold decode5 at h
  split at h
  · next hn => cases h; exact encXYN_fields hc hn
  · cases h

theorem encode_of_decode8 {op : Word} {i : Instr} (hc : (opClass op).toNat = 0x8) (h : decode8 op = .ok i) :
    encode i = op := by
  unfold decode8 at h
  split at h
  case h_9 => cases h
  all_goals next hn => cases h; exact encXYN_fields hc hn

theorem encode_of_decode9 {op : Word} {i : Instr} (hc : (opClass op).toNat = 0x9) (h : decode9 op = .ok i) :
    encode i = op := by
  unfold decode9 at h
  split at h
  · next hn => cases h; exact encXYN_fields hc hn
  · cases h

theorem encode_of_decodeE {op : Word} {i : Instr} (hc : (opClass op).toNat = 0xE) (h : decodeE op = .ok i) :
    encode i = op := by
  unfold decodeE at h
  split at h
  case h_3 => cases h
  all_goals next hnn => cases h; exact encXNN_fields hc hnn

theorem encode_of_decodeF {op : Word} {i : Instr} (hc : (opClass op).toNat = 0xF) (h : decodeF op = .ok i) :
    encode i = op := by
  unfold decodeF at h
  split at h
  case h_10 => cases h
  all_goals next hnn => cases h; exact encXNN_fields hc hnn

/-- The decoder drops no bit: what it reads encodes to the word it read. -/
theorem encode_of_decodeWord {op : Word} {i : Instr} (h : decodeWord op = .ok i) : encode i = op := by
  unfold decodeWord at h
  split at h
  case h_1 hc => exact encode_of_decode0 hc h
  case h_6 hc => exact encode_of_decode5 hc h
  case h_9 hc => exact encode_of_decode8 hc h
  case h_10 hc => exact encode_of_decode9 hc h
  case h_15 hc => exact encode_of_decodeE hc h
  case h_16 =>
    have hlt := (opClass op).isLt
    have hc : (opClass op).toNat = 0xF := by simp only [imp_false] at *; omega
    exact encode_of_decodeF hc h
  case h_2 hc | h_3 hc | h_11 hc | h_12 hc => cases h; exact encNNN_fields hc
  case h_4 hc | h_5 hc | h_7 hc | h_8 hc | h_13 hc => cases h; exact encXNN_fields hc rfl
  case h_14 hc => cases h; exact encXYN_fields hc rfl

/-- Settles O5: every format determines its word by its fields, the ignored Y of 8XY6 among them. -/
theorem encodeOfDecodeIsIdentity : Obligations.EncodeOfDecodeIsIdentity := fun _ _ h => encode_of_decodeWord h

end Sys2Proof
end

section
/-! SUPPORT. The mask table (30_encoding.md R120, R121) and the list of unmatched opcodes (R123) against the decoder. -/

namespace Sys2Proof.Laws.EncodingKeepsPattern

/-- The family, gathered: the opcode of every instruction fits the row of that instruction. -/
theorem all : ∀ i : Instr, Statement i
  | .cls => cls
  | .ret => ret
  | .jp nnn => jp nnn
  | .call nnn => call nnn
  | .seImm x nn => seImm x nn
  | .sneImm x nn => sneImm x nn
  | .seReg x y => seReg x y
  | .sneReg x y => sneReg x y
  | .ldImm x nn => ldImm x nn
  | .addImm x nn => addImm x nn
  | .ldReg x y => ldReg x y
  | .orReg x y => orReg x y
  | .andReg x y => andReg x y
  | .xorReg x y => xorReg x y
  | .addReg x y => addReg x y
  | .subReg x y => subReg x y
  | .shr x y => shr x y
  | .subnReg x y => subnReg x y
  | .ldI nnn => ldI nnn
  | .jpV0 nnn => jpV0 nnn
  | .rnd x nn => rnd x nn
  | .drw x y n => drw x y n
  | .skp x => skp x
  | .sknp x => sknp x
  | .ldVxDt x => ldVxDt x
  | .ldDtVx x => ldDtVx x
  | .ldStVx x => ldStVx x
  | .addI x => addI x
  | .ldF x => ldF x
  | .ldB x => ldB x
  | .storeRegs x => storeRegs x
  | .loadRegs x => loadRegs x
  | .ldVxK x => ldVxK x

end Sys2Proof.Laws.EncodingKeepsPattern

namespace Sys2Proof

open Laws.EncodingKeepsPattern (encNNN_class encXNN_low encXYN_sub)

/-! ### Rows of the table are disjoint -/

/-- No two rows are compatible: their values differ in a bit that both masks keep. -/
theorem maskTable_pairwise : maskTable.Pairwise fun r q => r.value &&& q.mask ≠ q.value &&& r.mask := by
  decide

/-- Two rows that fit one opcode agree in every bit that both masks keep. -/
theorem Row.value_and_mask_of_fits {r q : Row} {op : Word} (hr : r.fits op = true) (hq : q.fits op = true) :
    r.value &&& q.mask = q.value &&& r.mask := by
  rw [← beq_iff_eq.mp hr, ← beq_iff_eq.mp hq]
  ac_rfl

/-- Settles O7: the rows at two places are incompatible, so that no opcode fits both. -/
theorem maskRowsAreDisjoint : Obligations.MaskRowsAreDisjoint := by
  intro op j k r q hj hk hr hq
  obtain ⟨hjl, rfl⟩ := List.getElem?_eq_some_iff.mp hj
  obtain ⟨hkl, rfl⟩ := List.getElem?_eq_some_iff.mp hk
  have hpair := List.pairwise_iff_getElem.mp maskTable_pairwise
  rcases Nat.lt_trichotomy j k with hlt | heq | hgt
  · exact absurd (Row.value_and_mask_of_fits hr hq) (hpair j k hjl hkl hlt)
  · exact heq
  · exact absurd (Row.value_and_mask_of_fits hq hr) (hpair k j hkl hjl hgt)

/-! ### A word that fits a row is an encoding -/

/-- A row of format NNN, XNN or XYN fixes the class nibble. -/
theorem opClass_of_fits {op v : Word} (h : Row.fits ⟨0xF000, v⟩ op = true) :
    (opClass op).toNat = v.toNat / 4096 := by
  have hv : op &&& 0xF000 = v := beq_iff_eq.mp h
  have hmask := encNNN_class (opClass op) (opNNN op)
  rw [encNNN_fields rfl, hv] at hmask
  rw [hmask, append_toNat]
  simp

/-- A row of format XY fixes the class nibble and the low nibble, and so the word but for X and Y. -/
theorem encXYN_of_fits {op v : Word} {c n : Nibble} (h : Row.fits ⟨0xF00F, v⟩ op = true)
    (hc : v.toNat / 4096 = c.toNat) (hn : v.toNat % 16 = n.toNat) : encXYN c (opX op) (opY op) n = op := by
  have hv : op &&& 0xF00F = v := beq_iff_eq.mp h
  have hmask := encXYN_sub (opClass op) (opX op) (opY op) (opN op)
  rw [encXYN_fields rfl rfl, hv] at hmask
  rw [hmask, append_toNat, append_toNat, append_toNat] at hc hn
  refine encXYN_fields ?_ ?_ <;> simp at hc hn <;> omega

/-- A row of format X fixes the class nibble and the low byte, and so the word but for X. -/
theorem encXNN_of_fits {op v : Word} {c : Nibble} {nn : Byte} (h : Row.fits ⟨0xF0FF, v⟩ op = true)
    (hc : v.toNat / 4096 = c.toNat) (hn : v.toNat % 256 = nn.toNat) : encXNN c (opX op) nn = op := by
  have hv : op &&& 0xF0FF = v := beq_iff_eq.mp h
  have hmask := encXNN_low (opClass op) (opX op) (opNN op)
  rw [encXNN_fields rfl rfl, hv] at hmask
  rw [hmask, append_toNat, append_toNat] at hc hn
  refine encXNN_fields ?_ ?_ <;> simp at hc hn <;> omega

/-- A row with the full mask fixes the word. -/
theorem eq_of_fits {op v : Word} (h : Row.fits ⟨0xFFFF, v⟩ op = true) : v = op := by
  have hv : op &&& 0xFFFF = v := beq_iff_eq.mp h
  exact hv.symm.trans BitVec.and_allOnes

/-- An opcode that fits rows 1 to 8 is an encoding. -/
theorem exists_encode_of_fits_flow {op : Word} : ∀ r ∈ flowRows, r.fits op = true → ∃ i, encode i = op := by
  simp only [flowRows, List.forall_mem_cons]
  exact ⟨fun h => ⟨.cls, eq_of_fits h⟩,
    fun h => ⟨.ret, eq_of_fits h⟩,
    fun h => ⟨.jp _, encNNN_fields (opClass_of_fits h)⟩,
    fun h => ⟨.call _, encNNN_fields (opClass_of_fits h)⟩,
    fun h => ⟨.seImm _ _, encXNN_fields (opClass_of_fits h) rfl⟩,
    fun h => ⟨.sneImm _ _, encXNN_fields (opClass_of_fits h) rfl⟩,
    fun h => ⟨.seReg _ _, encXYN_of_fits h rfl rfl⟩,
    fun h => ⟨.sneReg _ _, encXYN_of_fits h rfl rfl⟩,
    nofun⟩

/-- An opcode that fits rows 9 to 18 is an encoding. -/
theorem exists_encode_of_fits_alu {op : Word} : ∀ r ∈ aluRows, r.fits op = true → ∃ i, encode i = op := by
  simp only [aluRows, List.forall_mem_cons]
  exact ⟨fun h => ⟨.ldImm _ _, encXNN_fields (opClass_of_fits h) rfl⟩,
    fun h => ⟨.addImm _ _, encXNN_fields (opClass_of_fits h) rfl⟩,
    fun h => ⟨.ldReg _ _, encXYN_of_fits h rfl rfl⟩,
    fun h => ⟨.orReg _ _, encXYN_of_fits h rfl rfl⟩,
    fun h => ⟨.andReg _ _, encXYN_of_fits h rfl rfl⟩,
    fun h => ⟨.xorReg _ _, encXYN_of_fits h rfl rfl⟩,
    fun h => ⟨.addReg _ _, encXYN_of_fits h rfl rfl⟩,
    fun h => ⟨.subReg _ _, encXYN_of_fits h rfl rfl⟩,
    fun h => ⟨.shr _ _, encXYN_of_fits h rfl rfl⟩,
    fun h => ⟨.subnReg _ _, encXYN_of_fits h rfl rfl⟩,
    nofun⟩

/-- An opcode that fits rows 19 to 24 is an encoding. -/
theorem exists_encode_of_fits_index {op : Word} : ∀ r ∈ indexRows, r.fits op = true → ∃ i, encode i = op := by
  simp only [indexRows, List.forall_mem_cons]
  exact ⟨fun h => ⟨.ldI _, encNNN_fields (opClass_of_fits h)⟩,
    fun h => ⟨.jpV0 _, encNNN_fields (opClass_of_fits h)⟩,
    fun h => ⟨.rnd _ _, encXNN_fields (opClass_of_fits h) rfl⟩,
    fun h => ⟨.drw _ _ _, encXYN_fields (opClass_of_fits h) rfl⟩,
    fun h => ⟨.skp _, encXNN_of_fits h rfl rfl⟩,
    fun h => ⟨.sknp _, encXNN_of_fits h rfl rfl⟩,
    nofun⟩

/-- An opcode that fits rows 25 to 33 is an encoding. -/
theorem exists_encode_of_fits_misc {op : Word} : ∀ r ∈ miscRows, r.fits op = true → ∃ i, encode i = op := by
  simp only [miscRows, List.forall_mem_cons]
  exact ⟨fun h => ⟨.ldVxDt _, encXNN_of_fits h rfl rfl⟩,
    fun h => ⟨.ldDtVx _, encXNN_of_fits h rfl rfl⟩,
    fun h => ⟨.ldStVx _, encXNN_of_fits h rfl rfl⟩,
    fun h => ⟨.addI _, encXNN_of_fits h rfl rfl⟩,
    fun h => ⟨.ldF _, encXNN_of_fits h rfl rfl⟩,
    fun h => ⟨.ldB _, encXNN_of_fits h rfl rfl⟩,
    fun h => ⟨.storeRegs _, encXNN_of_fits h rfl rfl⟩,
    fun h => ⟨.loadRegs _, encXNN_of_fits h rfl rfl⟩,
    fun h => ⟨.ldVxK _, encXNN_of_fits h rfl rfl⟩,
    nofun⟩

/-- A well-formed opcode is the encoding of some instruction. -/
theorem exists_encode_of_wellFormedWord {op : Word} (h : wellFormedWord op = true) : ∃ i, encode i = op := by
  obtain ⟨r, hmem, hfits⟩ := List.any_eq_true.mp h
  simp only [maskTable, List.mem_append] at hmem
  obtain ((hmem | hmem) | hmem) | hmem := hmem
  · exact exists_encode_of_fits_flow r hmem hfits
  · exact exists_encode_of_fits_alu r hmem hfits
  · exact exists_encode_of_fits_index r hmem hfits
  · exact exists_encode_of_fits_misc r hmem hfits

/-! ### The decoder and the table agree -/

/-- An opcode that decodes fits the row of what it decodes to, since it is the encoding of that instruction. -/
theorem fits_row_of_decodeWord {op : Word} {i : Instr} (h : decodeWord op = .ok i) :
    ∃ r, maskTable[i.rowIndex]? = some r ∧ r.fits op = true := by
  rw [← encode_of_decodeWord h]
  exact Option.map_eq_some_iff.mp (Laws.EncodingKeepsPattern.all i)

/-- The decoder accepts exactly the well-formed words. -/
theorem decodeWord_isOk_iff {op : Word} : (∃ i, decodeWord op = .ok i) ↔ wellFormedWord op = true := by
  constructor
  · rintro ⟨i, hi⟩
    obtain ⟨r, hr, hfits⟩ := fits_row_of_decodeWord hi
    exact List.any_eq_true.mpr ⟨r, List.mem_of_getElem? hr, hfits⟩
  · intro h
    obtain ⟨i, rfl⟩ := exists_encode_of_wellFormedWord h
    exact ⟨i, decodeWord_encode i⟩

/-- Settles O6: what decodes is an encoding, which fits its row; what fits a row is an encoding, which decodes. -/
theorem decoderAgreesWithMaskTable : Obligations.DecoderAgreesWithMaskTable := fun _ =>
  ⟨fun _ hi => fits_row_of_decodeWord hi, decodeWord_isOk_iff⟩

/-! ### The unmatched opcodes -/

theorem decode0_unmatched_iff (op : Word) :
    (∃ c, decode0 op = .error (.unmatched c)) ↔ op.toNat % 4096 ≠ 0x0E0 ∧ op.toNat % 4096 ≠ 0x0EE := by
  rw [← opNNN_toNat]
  unfold decode0
  split <;> simp_all

theorem decode5_unmatched_iff (op : Word) : (∃ c, decode5 op = .error (.unmatched c)) ↔ op.toNat % 16 ≠ 0 := by
  rw [← opN_toNat]
  unfold decode5
  split <;> simp_all

theorem decode8_unmatched_iff (op : Word) : (∃ c, decode8 op = .error (.unmatched c)) ↔ 8 ≤ op.toNat % 16 := by
  rw [← opN_toNat]
  unfold decode8
  split <;> simp_all
  omega

theorem decode9_unmatched_iff (op : Word) : (∃ c, decode9 op = .error (.unmatched c)) ↔ op.toNat % 16 ≠ 0 := by
  rw [← opN_toNat]
  unfold decode9
  split <;> simp_all

theorem decodeE_unmatched_iff (op : Word) :
    (∃ c, decodeE op = .error (.unmatched c)) ↔ op.toNat % 256 ∉ [0x9E, 0xA1] := by
  rw [← opNN_toNat]
  unfold decodeE
  split <;> simp_all

theorem decodeF_unmatched_iff (op : Word) :
    (∃ c, decodeF op = .error (.unmatched c)) ↔
      op.toNat % 256 ∉ [0x07, 0x0A, 0x15, 0x18, 0x1E, 0x29, 0x33, 0x55, 0x65] := by
  rw [← opNN_toNat]
  unfold decodeF
  split <;> simp_all

/-- The two whole words of class 0, by their address fields. -/
theorem class0_ne_iff {op : Word} (hc : op.toNat / 4096 = 0) :
    op.toNat % 4096 ≠ 0x0E0 ∧ op.toNat % 4096 ≠ 0x0EE ↔ op ≠ 0x00E0 ∧ op ≠ 0x00EE := by
  have hmod : op.toNat % 4096 = op.toNat := by omega
  simp [hmod, ← BitVec.toNat_inj]

/-- Settles O8: class by class, by what each class's decoder rejects; the other classes reject nothing. -/
theorem unmatchedOpcodesAreTheListedOnes : Obligations.UnmatchedOpcodesAreTheListedOnes := by
  intro op cls n nn
  have hcls : (opClass op).toNat = cls := opClass_toNat op
  unfold decodeWord
  split
  case h_1 hc =>
    have h0 : cls = 0x0 := hcls.symm.trans hc
    rw [decode0_unmatched_iff, class0_ne_iff h0]
    simp [h0]
  case h_6 hc => rw [decode5_unmatched_iff]; simp [n, hcls.symm.trans hc]
  case h_9 hc => rw [decode8_unmatched_iff]; simp [n, hcls.symm.trans hc]
  case h_10 hc => rw [decode9_unmatched_iff]; simp [n, hcls.symm.trans hc]
  case h_15 hc => rw [decodeE_unmatched_iff]; simp [nn, hcls.symm.trans hc]
  case h_16 =>
    have hlt := (opClass op).isLt
    have hc : cls = 0xF := by simp only [imp_false] at *; omega
    rw [decodeF_unmatched_iff]
    simp [nn, hc]
  all_goals next hc => simp [hcls.symm.trans hc]

/-- Settles O9: the eight words are the encodings of the instructions, and decoding is inverse to encoding. -/
theorem sampleWordsDecode : Obligations.SampleWordsDecode :=
  ⟨decodeWord_encode .cls, decodeWord_encode (.call 0xABC), decodeWord_encode (.ldImm 0xA 0x2F),
    decodeWord_encode (.subnReg 1 2), decodeWord_encode (.jpV0 0x300), decodeWord_encode (.drw 1 2 5),
    decodeWord_encode (.sknp 5), decodeWord_encode (.loadRegs 3)⟩

end Sys2Proof
end

section
/-! SUPPORT. Once, everything an execute phase can do: what it leaves when it completes, what it raises when it does not,
and that it does one of the two. Every later proof about `exec` cites these and follows their cases. -/

namespace Sys2Proof.Machine

/-! ### The execute phase as a relation -/

/-- `Completes s i t`: the execute phase of `i` on `s` raises nothing and leaves `t`. -/
inductive Completes (s : State) : Instr → State → Prop
  | cls : Completes s .cls (s.setDisplay Display.clear)
  | ret (h : 0 < s.sp.val) :
      Completes s .ret ((s.setStack ⟨s.sp.val - 1, by omega⟩ s.stack).setPc (s.stack[s.sp.val - 1]'(by omega)))
  | jp (nnn : Addr) : Completes s (.jp nnn) (s.setPc (addrOperand nnn))
  | call (nnn : Addr) (h : s.sp.val < 16) :
      Completes s (.call nnn)
        ((s.setStack ⟨s.sp.val + 1, by omega⟩ (s.stack.set s.sp.val s.pc)).setPc (addrOperand nnn))
  | seImm (x : Reg) (nn : Byte) :
      Completes s (.seImm x nn) (s.setPc (if s.getV x = nn then s.pc + 2 else s.pc))
  | sneImm (x : Reg) (nn : Byte) :
      Completes s (.sneImm x nn) (s.setPc (if s.getV x = nn then s.pc else s.pc + 2))
  | seReg (x y : Reg) : Completes s (.seReg x y) (s.setPc (if s.getV x = s.getV y then s.pc + 2 else s.pc))
  | sneReg (x y : Reg) : Completes s (.sneReg x y) (s.setPc (if s.getV x = s.getV y then s.pc else s.pc + 2))
  | ldImm (x : Reg) (nn : Byte) : Completes s (.ldImm x nn) (s.setV x nn)
  | addImm (x : Reg) (nn : Byte) : Completes s (.addImm x nn) (s.setV x (s.getV x + nn))
  | ldReg (x y : Reg) : Completes s (.ldReg x y) (s.setV x (s.getV y))
  | orReg (x y : Reg) : Completes s (.orReg x y) (s.setV x (s.getV x ||| s.getV y))
  | andReg (x y : Reg) : Completes s (.andReg x y) (s.setV x (s.getV x &&& s.getV y))
  | xorReg (x y : Reg) : Completes s (.xorReg x y) (s.setV x (s.getV x ^^^ s.getV y))
  | addReg (x y : Reg) :
      Completes s (.addReg x y)
        (writeResultAndFlag x (s.getV x + s.getV y) (carryFlag (s.getV x) (s.getV y)) s)
  | subReg (x y : Reg) :
      Completes s (.subReg x y)
        (writeResultAndFlag x (s.getV x - s.getV y) (noBorrowFlag (s.getV x) (s.getV y)) s)
  | shr (x y : Reg) :
      Completes s (.shr x y) (writeResultAndFlag x (s.getV x >>> 1) (shiftedOutFlag (s.getV x)) s)
  | subnReg (x y : Reg) :
      Completes s (.subnReg x y)
        (writeResultAndFlag x (s.getV y - s.getV x) (noBorrowFlag (s.getV y) (s.getV x)) s)
  | ldI (nnn : Addr) : Completes s (.ldI nnn) (s.setI (addrOperand nnn))
  | jpV0 (nnn : Addr) : Completes s (.jpV0 nnn) (s.setPc (addrOperand nnn + regWide s 0))
  | rnd (x : Reg) (nn : Byte) : Completes s (.rnd x nn) (s.setV x (rndInput s &&& nn))
  | drw (x y : Reg) (n : Nibble) (h : n.toNat = 0 ∨ indexBase s + n.toNat ≤ 0x1000) :
      Completes s (.drw x y n) (drawSprite (s.getV x) (s.getV y) (bytesFrom s (indexBase s) n.toNat) s)
  | skp (x : Reg) (h : (s.getV x).toNat < 16) :
      Completes s (.skp x) (s.setPc (if s.keys[(s.getV x).toNat] = true then s.pc + 2 else s.pc))
  | sknp (x : Reg) (h : (s.getV x).toNat < 16) :
      Completes s (.sknp x) (s.setPc (if s.keys[(s.getV x).toNat] = true then s.pc else s.pc + 2))
  | ldVxDt (x : Reg) : Completes s (.ldVxDt x) (s.setV x s.dt)
  | ldDtVx (x : Reg) : Completes s (.ldDtVx x) (s.setDt (s.getV x))
  | ldStVx (x : Reg) : Completes s (.ldStVx x) (s.setSt (s.getV x))
  | addI (x : Reg) : Completes s (.addI x) (s.setI (s.i + regWide s x))
  | ldF (x : Reg) : Completes s (.ldF x) (s.setI (regWide s x * 5))
  | ldB (x : Reg) (h0 : 0x50 ≤ indexBase s) (h : indexBase s + 2 ≤ 0xFFF) :
      Completes s (.ldB x)
        (s.setMem (Memory.putBytes s.params.font (indexBase s) (decimalDigits (s.getV x)) s.mem))
  | storeRegs (x : Reg) (h0 : 0x50 ≤ indexBase s) (h : indexBase s + x.val ≤ 0xFFF) :
      Completes s (.storeRegs x)
        (s.setMem (Memory.putBytes s.params.font (indexBase s) (regsUpTo s x) s.mem))
  | loadRegs (x : Reg) (h : indexBase s + x.val ≤ 0xFFF) :
      Completes s (.loadRegs x) (loadRegsFrom s 0 (bytesFrom s (indexBase s) (x.val + 1)))
  | ldVxK_pressed (x : Reg) {k : Nat} (h : lowestPressed s.keys.toList = some k) :
      Completes s (.ldVxK x) (s.setV x (BitVec.ofNat 8 k))
  | ldVxK_stalled (x : Reg) (h : lowestPressed s.keys.toList = none) : Completes s (.ldVxK x) s.rewind

/-- `Raises s i r`: the execute phase of `i` on `s` raises `r`. -/
inductive Raises (s : State) : Instr → Raise → Prop
  | call (nnn : Addr) (h : s.sp.val = 16) : Raises s (.call nnn) { kind := .stackOverflow, info := pcInfo s }
  | ret (h : s.sp.val = 0) : Raises s .ret { kind := .stackUnderflow, info := pcInfo s }
  | drw (x y : Reg) (n : Nibble) (h0 : n.toNat ≠ 0) (h : 0x1000 < indexBase s + n.toNat) :
      Raises s (.drw x y n) (raiseOutOfBounds (max (indexBase s) 0x1000))
  | skp (x : Reg) (h : 16 ≤ (s.getV x).toNat) :
      Raises s (.skp x) { kind := .keyOutOfRange, info := (s.getV x).setWidth 17 }
  | sknp (x : Reg) (h : 16 ≤ (s.getV x).toNat) :
      Raises s (.sknp x) { kind := .keyOutOfRange, info := (s.getV x).setWidth 17 }
  | ldB_font (x : Reg) (h : indexBase s ≤ 0x4F) : Raises s (.ldB x) (raiseFontWrite (indexBase s))
  | ldB_outside (x : Reg) (h : 0xFFF < indexBase s + 2) :
      Raises s (.ldB x) (raiseOutOfBounds (max (indexBase s) 0x1000))
  | storeRegs_font (x : Reg) (h : indexBase s ≤ 0x4F) : Raises s (.storeRegs x) (raiseFontWrite (indexBase s))
  | storeRegs_outside (x : Reg) (h : 0xFFF < indexBase s + x.val) :
      Raises s (.storeRegs x) (raiseOutOfBounds (max (indexBase s) 0x1000))
  | loadRegs (x : Reg) (h : 0xFFF < indexBase s + x.val) :
      Raises s (.loadRegs x) (raiseOutOfBounds (max (indexBase s) 0x1000))

/-! ### The relation is `exec` -/

@[simp] theorem decimalDigits_length (a : Byte) : (decimalDigits a).length = 3 := rfl

@[simp] theorem regsUpTo_length (s : State) (x : Reg) : (regsUpTo s x).length = x.val + 1 := by
  simp only [regsUpTo, List.length_take, Vector.length_toList]
  omega

theorem decimalDigits_ne_nil (a : Byte) : decimalDigits a ≠ [] := List.cons_ne_nil _ _

theorem regsUpTo_ne_nil (s : State) (x : Reg) : regsUpTo s x ≠ [] :=
  List.ne_nil_of_length_pos (by simp)

/-- What completes, `exec` answers. -/
theorem exec_of_completes {i : Instr} {s t : State} (h : Completes s i t) : exec i s = .next t := by
  cases h with
  | ret h => simp only [exec, execRet, pop_ok h]; rfl
  | call nnn h => simp only [exec, execCall, push_ok s.pc h]; rfl
  | seImm x nn => exact exec_seImm x nn s
  | sneImm x nn => exact exec_sneImm x nn s
  | seReg x y => exact exec_seReg x y s
  | sneReg x y => exact exec_sneReg x y s
  | drw x y n h => simp only [exec, execDrw, readBlock_ok s h]; rfl
  | skp x h => simp only [exec, execSkp, keyOperand_ok h, Except.map, commit, State.skipIf_eq]
  | sknp x h =>
    simp only [exec, execSknp, keyOperand_ok h, Except.map, commit, State.skipIf_eq, Bool.not_eq_true',
      ← Bool.not_eq_true, ite_not]
  | ldB x h0 h =>
    have hfit : indexBase s + (decimalDigits (s.getV x)).length ≤ 0x1000 := by simp; omega
    simp only [exec, execLdB, writeBlock_ok (.inr h0) (.inr hfit), commit]
  | storeRegs x h0 h =>
    have hfit : indexBase s + (regsUpTo s x).length ≤ 0x1000 := by simp; omega
    simp only [exec, execStoreRegs, writeBlock_ok (.inr h0) (.inr hfit), commit]
  | loadRegs x h =>
    have hfit : indexBase s + (x.val + 1) ≤ 0x1000 := by omega
    simp only [exec, execLoadRegs, readBlock_ok s (.inr hfit)]
    rfl
  | ldVxK_pressed x h => exact exec_ldVxK_of_pressed x h
  | ldVxK_stalled x h => exact exec_ldVxK_of_no_key x h
  | _ => rfl

/-- What raises, `exec` answers with the fatal-error entry on the state at the start of the step. -/
theorem exec_of_raises {i : Instr} {s : State} {r : Raise} (h : Raises s i r) :
    exec i s = .next (takeFatal s.rewind (encode i) r) := by
  cases h with
  | call nnn h => simp only [exec, execCall, push_full s.pc h]; rfl
  | ret h => simp only [exec, execRet, pop_empty h]; rfl
  | drw x y n h0 h => simp only [exec, execDrw, readBlock_error s h0 h]; rfl
  | skp x h => simp only [exec, execSkp, keyOperand_error h]; rfl
  | sknp x h => simp only [exec, execSknp, keyOperand_error h]; rfl
  | ldB_font x h =>
    simp only [exec, execLdB, writeBlock_font (decimalDigits_ne_nil _) h, commit]
  | ldB_outside x h =>
    have hout : 0x1000 < indexBase s + (decimalDigits (s.getV x)).length := by simp; omega
    have h0 : 0x50 ≤ indexBase s := by omega
    simp only [exec, execLdB, writeBlock_outOfBounds (decimalDigits_ne_nil _) h0 hout, commit]
  | storeRegs_font x h => simp only [exec, execStoreRegs, writeBlock_font (regsUpTo_ne_nil s x) h, commit]
  | storeRegs_outside x h =>
    have hout : 0x1000 < indexBase s + (regsUpTo s x).length := by simp; omega
    have h0 : 0x50 ≤ indexBase s := by omega
    simp only [exec, execStoreRegs, writeBlock_outOfBounds (regsUpTo_ne_nil s x) h0 hout, commit]
  | loadRegs x h =>
    have hout : 0x1000 < indexBase s + (x.val + 1) := by omega
    simp only [exec, execLoadRegs, readBlock_error s (Nat.succ_ne_zero _) hout]
    rfl

/-- Every execute phase completes or raises. -/
theorem completes_or_raises (i : Instr) (s : State) : (∃ t, Completes s i t) ∨ ∃ r, Raises s i r := by
  cases i with
  | ret =>
    by_cases h : s.sp.val = 0
    · exact .inr ⟨_, .ret h⟩
    · exact .inl ⟨_, .ret (by omega)⟩
  | call nnn =>
    by_cases h : s.sp.val = 16
    · exact .inr ⟨_, .call nnn h⟩
    · exact .inl ⟨_, .call nnn (by omega)⟩
  | drw x y n =>
    by_cases h : n.toNat = 0 ∨ indexBase s + n.toNat ≤ 0x1000
    · exact .inl ⟨_, .drw x y n h⟩
    · exact .inr ⟨_, .drw x y n (by omega) (by omega)⟩
  | skp x =>
    by_cases h : (s.getV x).toNat < 16
    · exact .inl ⟨_, .skp x h⟩
    · exact .inr ⟨_, .skp x (by omega)⟩
  | sknp x =>
    by_cases h : (s.getV x).toNat < 16
    · exact .inl ⟨_, .sknp x h⟩
    · exact .inr ⟨_, .sknp x (by omega)⟩
  | ldB x =>
    by_cases h0 : indexBase s ≤ 0x4F
    · exact .inr ⟨_, .ldB_font x h0⟩
    · by_cases h : indexBase s + 2 ≤ 0xFFF
      · exact .inl ⟨_, .ldB x (by omega) h⟩
      · exact .inr ⟨_, .ldB_outside x (by omega)⟩
  | storeRegs x =>
    by_cases h0 : indexBase s ≤ 0x4F
    · exact .inr ⟨_, .storeRegs_font x h0⟩
    · by_cases h : indexBase s + x.val ≤ 0xFFF
      · exact .inl ⟨_, .storeRegs x (by omega) h⟩
      · exact .inr ⟨_, .storeRegs_outside x (by omega)⟩
  | loadRegs x =>
    by_cases h : indexBase s + x.val ≤ 0xFFF
    · exact .inl ⟨_, .loadRegs x h⟩
    · exact .inr ⟨_, .loadRegs x (by omega)⟩
  | ldVxK x =>
    cases h : lowestPressed s.keys.toList with
    | some k => exact .inl ⟨_, .ldVxK_pressed x h⟩
    | none => exact .inl ⟨_, .ldVxK_stalled x h⟩
  | _ => exact .inl ⟨_, by constructor⟩

/-- The next state of an execute phase: what it completes with, or the fatal-error entry for what it raises. -/
theorem exec_cases {i : Instr} {s t : State} (h : exec i s = .next t) :
    Completes s i t ∨ ∃ r, Raises s i r ∧ t = takeFatal s.rewind (encode i) r := by
  obtain ⟨u, hu⟩ | ⟨r, hr⟩ := completes_or_raises i s
  · cases h.symm.trans (exec_of_completes hu)
    exact .inl hu
  · exact .inr ⟨r, hr, Host.Outcome.next.inj (h.symm.trans (exec_of_raises hr))⟩

/-- Every execute phase answers a next state. -/
theorem exists_exec_next (i : Instr) (s : State) : ∃ t, exec i s = .next t := by
  obtain ⟨t, ht⟩ | ⟨r, hr⟩ := completes_or_raises i s
  · exact ⟨t, exec_of_completes ht⟩
  · exact ⟨_, exec_of_raises hr⟩

/-! ### What a completed execute phase leaves alone -/

/-- A state that differs from `s` in the register file alone, written as an update of `s`. -/
theorem State.eq_with_v {s t : State} (h : { t with v := s.v } = s) : t = { s with v := t.v } :=
  congrArg (fun u : State => { u with v := t.v }) h

/-- The shared write-back as an update of the register file. -/
theorem writeResultAndFlag_eq (x : Reg) (r : Byte) (f : Bool) (s : State) :
    writeResultAndFlag x r f s = { s with v := (writeResultAndFlag x r f s).v } :=
  State.eq_with_v (writeResultAndFlag_rest x r f s)

/-- Loading registers as an update of the register file. -/
theorem loadRegsFrom_eq (s : State) (k : Nat) (bs : List Byte) :
    loadRegsFrom s k bs = { s with v := (loadRegsFrom s k bs).v } :=
  State.eq_with_v (loadRegsFrom_rest bs s k)

/-- A completed execute phase writes no field but these. -/
theorem Completes.rest {i : Instr} {s t : State} (h : Completes s i t) :
    { t with
        v := s.v, i := s.i, pc := s.pc, sp := s.sp, stack := s.stack, dt := s.dt, st := s.st,
        display := s.display, mem := s.mem } = s := by
  cases h with
  | addReg | subReg | shr | subnReg => rw [writeResultAndFlag_eq]
  | loadRegs => rw [loadRegsFrom_eq]
  | _ => rfl

end Sys2Proof.Machine
end

section
/-! SUPPORT. What the instructions that raise and those that write one field answer (40_flow.md R151, R153; 41_alu.md
R182-R189; 42_index_jump_random.md R222, R223; 44_keypad.md; 45_misc_f.md R280-R285). -/

namespace Sys2Proof.Machine

/-! ### Raising -/

/-- What raises answers the fatal-error state of R320. -/
theorem exists_raised_of_raises {i : Instr} {s : State} {k : ErrKind} {info : BitVec 17} {n : Nat}
    (h : Raises s i { kind := k, info := info }) (hn : info = BitVec.ofNat 17 n) :
    ∃ t, exec i s = .next t ∧ Raised s t (s.pc - 2) k (encode i) n :=
  ⟨_, exec_of_raises h, rfl, rfl, rfl, rfl, hn ▸ rfl⟩

/-- The info of a stack error is pc, as a number (R310). -/
theorem pcInfo_eq (s : State) : pcInfo s = BitVec.ofNat 17 s.pc.toNat := (BitVec.ofNat_toNat 17 s.pc).symm

/-! ### Call and return -/

/-- Settles O27: the two clauses are the two outcomes of 00EE. -/
theorem returnPopsTheStack : Obligations.ReturnPopsTheStack := by
  refine fun s => ⟨fun h => ⟨_, exec_of_completes (.ret h), rfl, ?_, rfl⟩, fun h => ?_⟩
  · exact Nat.sub_add_cancel h
  · exact exists_raised_of_raises (.ret h) (pcInfo_eq s)

/-- Settles O29: the two clauses are the two outcomes of 2NNN; the push writes the slot at sp alone. -/
theorem callPushesTheReturnAddress : Obligations.CallPushesTheReturnAddress := by
  refine fun nnn s => ⟨fun h => ?free, fun h => ?full⟩
  case free =>
    refine ⟨_, exec_of_completes (.call nnn h), addrOperand_toNat nnn, rfl, Vector.getElem_set_self h,
      fun j hj => ?_, rfl⟩
    exact Vector.getElem_set_ne h j.isLt (Ne.symm hj)
  case full => exact exists_raised_of_raises (.call nnn h) (pcInfo_eq s)

/-- Settles O30: the slot that 2NNN wrote is the one that 00EE reads. -/
theorem callThenReturnRoundTrip : Obligations.CallThenReturnRoundTrip := by
  intro nnn s t u hsp ht hu hstack
  cases ht.symm.trans (exec_of_completes (.call nnn hsp))
  have hpos : 0 < u.sp.val := by rw [hu]; exact Nat.succ_pos _
  refine ⟨_, exec_of_completes (.ret hpos), ?_, ?_, rfl⟩
  · simp [hu, hstack]
  · simp [hu]

/-! ### Assign and logic -/

/-- Settles O34: each is a write of VX alone. -/
theorem assignAndLogic : Obligations.AssignAndLogic := fun x y s =>
  ⟨⟨_, exec_of_completes (.ldReg x y), s.onlyRegs_setV x _, s.getV_setV_self x _⟩,
    ⟨_, exec_of_completes (.orReg x y), s.onlyRegs_setV x _, fun k _ => by
      rw [State.getV_setV_self, BitVec.getLsbD_or]⟩,
    ⟨_, exec_of_completes (.andReg x y), s.onlyRegs_setV x _, fun k _ => by
      rw [State.getV_setV_self, BitVec.getLsbD_and]⟩,
    ⟨_, exec_of_completes (.xorReg x y), s.onlyRegs_setV x _, fun k _ => by
      rw [State.getV_setV_self, BitVec.getLsbD_xor]⟩⟩

/-! ### Add and subtract with a flag -/

/-- The carry flag as a number (R34). -/
theorem flagByte_carryFlag_toNat (a b : Byte) :
    (flagByte (carryFlag a b)).toNat = if 255 < a.toNat + b.toNat then 1 else 0 := by
  simp only [flagByte_toNat, carryFlag, decide_eq_true_eq]

/-- The NOT borrow flag as a number (R34). -/
theorem flagByte_noBorrowFlag_toNat (a b : Byte) :
    (flagByte (noBorrowFlag a b)).toNat = if b.toNat ≤ a.toNat then 1 else 0 := by
  simp only [flagByte_toNat, noBorrowFlag, decide_eq_true_eq]

/-- The wrapped difference of two bytes as a number (R192). -/
theorem sub_toNat (a b : Byte) : (a - b).toNat = (a.toNat + 256 - b.toNat) % 256 := by
  have hb := b.isLt
  rw [BitVec.toNat_sub]
  congr 1
  omega

/-- Settles O35: the shared write-back of the wrapped sum and the carry. -/
theorem addSetsCarry : Obligations.AddSetsCarry := by
  refine fun x y s => ⟨_, exec_of_completes (.addReg x y), ?_⟩
  rw [← flagByte_carryFlag_toNat, show 256 = 2 ^ 8 from rfl, ← BitVec.toNat_add]
  exact writeResultAndFlag_resultAndFlag x _ _ s

/-- Settles O36: the shared write-back of the wrapped difference VX - VY and its NOT borrow. -/
theorem subSetsNotBorrow : Obligations.SubSetsNotBorrow := by
  refine fun x y s => ⟨_, exec_of_completes (.subReg x y), ?_⟩
  rw [← flagByte_noBorrowFlag_toNat, ← sub_toNat]
  exact writeResultAndFlag_resultAndFlag x _ _ s

/-- Settles O38: as 8XY5 with the operands exchanged. -/
theorem reverseSubSetsNotBorrow : Obligations.ReverseSubSetsNotBorrow := by
  refine fun x y s => ⟨_, exec_of_completes (.subnReg x y), ?_⟩
  rw [← flagByte_noBorrowFlag_toNat, ← sub_toNat]
  exact writeResultAndFlag_resultAndFlag x _ _ s

/-! ### Jump with offset, random -/

/-- A register widened to 16 bits keeps its value. -/
theorem regWide_toNat (s : State) (r : Reg) : (regWide s r).toNat = (s.getV r).toNat :=
  BitVec.toNat_setWidth_of_le (by decide)

/-- The sum BNNN jumps to fits in 16 bits. -/
theorem addrOperand_add_regWide_toNat (nnn : Addr) (s : State) (r : Reg) :
    (addrOperand nnn + regWide s r).toNat = nnn.toNat + (s.getV r).toNat := by
  have ha := nnn.isLt
  have hr := (s.getV r).isLt
  rw [BitVec.toNat_add, addrOperand_toNat, regWide_toNat]
  omega

/-- Settles O40: the sum needs no masking, and pc alone is written. -/
theorem jumpWithOffset : Obligations.JumpWithOffset := fun nnn s =>
  ⟨_, exec_of_completes (.jpV0 nnn), addrOperand_add_regWide_toNat nnn s 0, s.setPc_rest _⟩

/-- Settles O41: a write of VX alone, whatever the free byte is. -/
theorem randomIsMasked : Obligations.RandomIsMasked := fun x nn s =>
  ⟨_, exec_of_completes (.rnd x nn), s.onlyRegs_setV x _, s.getV_setV_self x _⟩

/-! ### Key skips -/

/-- The info of KeyOutOfRange is VX, as a number (R310). -/
theorem keyInfo_eq (s : State) (x : Reg) : (s.getV x).setWidth 17 = BitVec.ofNat 17 (s.getV x).toNat :=
  (BitVec.ofNat_toNat 17 (s.getV x)).symm

/-- Settles O46: each clause is one outcome of EX9E and EXA1. -/
theorem keySkips : Obligations.KeySkips := fun x s =>
  ⟨fun h => ⟨⟨_, exec_of_completes (.skp x h), s.setPc_rest _, s.setPc_pc _⟩,
      ⟨_, exec_of_completes (.sknp x h), s.setPc_rest _, s.setPc_pc _⟩⟩,
    fun h => ⟨exists_raised_of_raises (.skp x h) (keyInfo_eq s x),
      exists_raised_of_raises (.sknp x h) (keyInfo_eq s x)⟩⟩

/-! ### Timers and index -/

/-- Settles O48: each writes its timer alone. -/
theorem writeTimers : Obligations.WriteTimers := fun x s =>
  ⟨⟨_, exec_of_completes (.ldDtVx x), s.setDt_dt _, rfl⟩, ⟨_, exec_of_completes (.ldStVx x), s.setSt_st _, rfl⟩⟩

/-- Settles O49: the 16-bit sum wraps, and I alone is written. -/
theorem addToIndex : Obligations.AddToIndex := by
  refine fun x s => ⟨_, exec_of_completes (.addI x), ?_, s.setI_rest _⟩
  rw [State.setI_i, BitVec.toNat_add, regWide_toNat]

/-- Settles O50: the product fits in 16 bits, and I alone is written. -/
theorem fontAddress : Obligations.FontAddress := by
  refine fun x s => ⟨_, exec_of_completes (.ldF x), ?_, s.setI_rest _⟩
  have hx := (s.getV x).isLt
  rw [State.setI_i, BitVec.toNat_mul, regWide_toNat]
  exact Nat.mod_eq_of_lt (by simp; omega)

end Sys2Proof.Machine
end

section
/-! SUPPORT. The block transfers between registers and memory (45_misc_f.md R286-R288). -/

namespace Sys2Proof.Machine

/-! ### Bytes stored and registers loaded -/

/-- Reading memory after a block was stored. -/
theorem State.byteAt_putBytes (s : State) (a b : Nat) (bs : List Byte) :
    (s.setMem (Memory.putBytes s.params.font a bs s.mem)).byteAt b =
      if h : a ≤ b ∧ b < a + bs.length then bs[b - a]'(by omega) else s.byteAt b :=
  Memory.get_putBytes bs s.mem a b

/-- A byte inside a stored block. -/
theorem State.byteAt_putBytes_add (s : State) (a k : Nat) (bs : List Byte) (h : k < bs.length) :
    (s.setMem (Memory.putBytes s.params.font a bs s.mem)).byteAt (a + k) = bs[k] := by
  rw [State.byteAt_putBytes, dif_pos (by omega)]
  simp

/-- A byte outside a stored block. -/
theorem State.byteAt_putBytes_outside (s : State) {a b : Nat} {bs : List Byte} (h : ¬ (a ≤ b ∧ b < a + bs.length)) :
    (s.setMem (Memory.putBytes s.params.font a bs s.mem)).byteAt b = s.byteAt b := by
  rw [State.byteAt_putBytes, dif_neg h]

/-- A write of memory leaves every other field. -/
theorem State.setMem_rest (s : State) (m : Memory) : { s.setMem m with mem := s.mem } = s := rfl

/-- The list FX55 stores holds V[k] at its place k. -/
theorem regsUpTo_getElem (s : State) {x r : Reg} (h : r.val < (regsUpTo s x).length) :
    (regsUpTo s x)[r.val] = s.getV r := by
  simp [regsUpTo, State.getV]

/-- FX65 leaves in V0..VX the bytes from I upwards, and the other registers alone. -/
theorem loadRegsFrom_bytesFrom_getV (s : State) (a : Nat) (x r : Reg) :
    (loadRegsFrom s 0 (bytesFrom s a (x.val + 1))).getV r =
      if r ≤ x then s.byteAt (a + r.val) else s.getV r := by
  rw [loadRegsFrom_getV _ s 0 (by simp)]
  by_cases h : r ≤ x
  · have hr : r.val < x.val + 1 := Nat.lt_succ_of_le h
    simp [h, hr, bytesFrom]
  · have hr : ¬ r.val < x.val + 1 := fun hlt => h (Nat.le_of_lt_succ hlt)
    simp [h, hr]

/-! ### The statements -/

/-- Settles O51: the three digits are a stored block, which the frame of a memory write surrounds. -/
theorem binaryCodedDecimal : Obligations.BinaryCodedDecimal := by
  intro x s h0 h
  refine ⟨_, exec_of_completes (.ldB x h0 h), ?_, ?_, ?_, fun a ha => ?_, s.setMem_rest _⟩
  · exact congrArg BitVec.toNat (s.byteAt_putBytes_add (indexBase s) 0 (decimalDigits (s.getV x)) (by simp))
  · exact congrArg BitVec.toNat (s.byteAt_putBytes_add (indexBase s) 1 (decimalDigits (s.getV x)) (by simp))
  · exact congrArg BitVec.toNat (s.byteAt_putBytes_add (indexBase s) 2 (decimalDigits (s.getV x)) (by simp))
  · exact s.byteAt_putBytes_outside ha

/-- Settles O52: V0..VX are a stored block, which the frame of a memory write surrounds. -/
theorem blockStore : Obligations.BlockStore := by
  intro x s h0 h
  refine ⟨_, exec_of_completes (.storeRegs x h0 h), fun r hr => ?_, fun a ha => ?_, s.setMem_rest _⟩
  · have hlen : r.val < (regsUpTo s x).length := by rw [regsUpTo_length]; exact Nat.lt_succ_of_le hr
    rw [State.byteAt_putBytes_add _ _ _ _ hlen, regsUpTo_getElem]
  · exact s.byteAt_putBytes_outside (by rw [regsUpTo_length]; omega)

/-- Settles O53: each clause is one way FX33 or FX55 raises. -/
theorem blockWriteRaisesAtFirstFailingAddress : Obligations.BlockWriteRaisesAtFirstFailingAddress := fun x _ =>
  ⟨fun h => ⟨exists_raised_of_raises (.ldB_font x h) rfl, exists_raised_of_raises (.storeRegs_font x h) rfl⟩,
    fun h => exists_raised_of_raises (.ldB_outside x h) rfl,
    fun h => exists_raised_of_raises (.storeRegs_outside x h) rfl⟩

/-- Settles O54: the two clauses are the two outcomes of FX65. -/
theorem blockLoad : Obligations.BlockLoad := by
  refine fun x s => ⟨fun h => ?inside, fun h => exists_raised_of_raises (.loadRegs x h) rfl⟩
  case inside =>
    refine ⟨_, exec_of_completes (.loadRegs x h), ⟨loadRegsFrom_rest _ s 0, fun r hr => ?_⟩, fun r hr => ?_⟩
    · rw [loadRegsFrom_bytesFrom_getV, if_neg hr]
    · rw [loadRegsFrom_bytesFrom_getV, if_pos hr]

/-- Settles O55: FX65 reads, byte by byte, what `blockStore` says FX55 stored. -/
theorem storeThenLoadRestoresRegisters : Obligations.StoreThenLoadRestoresRegisters := by
  intro x s t u h0 h ht hmem hparams hi
  obtain ⟨t', ht', hstored, -, hrest⟩ := blockStore x s h0 h
  cases ht.symm.trans ht'
  have hbase : indexBase u = indexBase s := congrArg BitVec.toNat (hi.trans (congrArg State.i hrest :))
  have hload : Completes u (.loadRegs x) _ := .loadRegs x (by rw [hbase]; exact h)
  refine ⟨_, exec_of_completes hload, fun r hr => ?_, fun r hr => ?_⟩
  · rw [loadRegsFrom_bytesFrom_getV, if_pos hr, hbase, State.byteAt_congr hmem hparams, hstored r hr]
  · rw [loadRegsFrom_bytesFrom_getV, if_neg (not_le.mpr hr)]

end Sys2Proof.Machine
end

section
/-! SUPPORT. Draw sprite (43_draw.md R240-R242): a draw inverts the pixels of a list of points, no pixel twice, and its
flag says whether one of them was lit before. -/

namespace Sys2Proof.Machine

/-! ### Inverting the pixels of a list of points -/

/-- Two points that are not the same pixel (R48). -/
abbrev PixelNe (p q : Nat × Nat) : Prop := ¬ (p.1 % 64 = q.1 % 64 ∧ p.2 % 32 = q.2 % 32)

/-- A draw of the points of a list, one after the other. -/
def drawPoints (ps : List (Nat × Nat)) (d : Drawing) : Drawing := ps.foldl (fun d p => drawBit true p.1 p.2 d) d

/-- Some point of the list is the pixel at column `c`, row `r`. -/
def coversPixel (ps : List (Nat × Nat)) (c r : Nat) : Bool := ps.any fun p => c % 64 == p.1 % 64 && r % 32 == p.2 % 32

theorem drawPoints_cons (p : Nat × Nat) (ps : List (Nat × Nat)) (d : Drawing) :
    drawPoints (p :: ps) d = drawPoints ps (d.1.flip p.1 p.2, d.2 || d.1.pixel p.1 p.2) := rfl

theorem drawPoints_append (ps qs : List (Nat × Nat)) (d : Drawing) :
    drawPoints (ps ++ qs) d = drawPoints qs (drawPoints ps d) := List.foldl_append

/-- Inverting one pixel leaves every other. -/
theorem Display.pixel_flip_of_ne (d : Display) {p q : Nat × Nat} (h : PixelNe p q) :
    (d.flip p.1 p.2).pixel q.1 q.2 = d.pixel q.1 q.2 := by
  rw [Display.pixel_flip]
  have h' : ¬ (q.1 % 64 = p.1 % 64 ∧ q.2 % 32 = p.2 % 32) := fun e => h ⟨e.1.symm, e.2.symm⟩
  rw [← Bool.decide_and, decide_eq_false h', Bool.xor_false]

/-- With no pixel twice in the list, the pixels inverted are those of its points. -/
theorem drawPoints_pixel {ps : List (Nat × Nat)} (hps : ps.Pairwise PixelNe) (d : Drawing) (c r : Nat) :
    (drawPoints ps d).1.pixel c r = (d.1.pixel c r ^^ coversPixel ps c r) := by
  induction ps generalizing d with
  | nil => simp [drawPoints, coversPixel]
  | cons p ps ih =>
    obtain ⟨hp, hps⟩ := List.pairwise_cons.mp hps
    rw [drawPoints_cons, ih hps, Display.pixel_flip, Bool.xor_assoc]
    congr 1
    by_cases h : c % 64 = p.1 % 64 ∧ r % 32 = p.2 % 32
    · have hno : coversPixel ps c r = false := by
        refine List.any_eq_false.mpr fun q hq e => hp q hq ?_
        simp only [Bool.and_eq_true, beq_iff_eq] at e
        exact ⟨h.1.symm.trans e.1, h.2.symm.trans e.2⟩
      rw [hno]
      simp [coversPixel, h]
    · simp [coversPixel, h, ← Bool.decide_and]

/-- With no pixel twice in the list, the flag says whether one of its points was lit before. -/
theorem drawPoints_flag {ps : List (Nat × Nat)} (hps : ps.Pairwise PixelNe) (d : Drawing) :
    (drawPoints ps d).2 = (d.2 || ps.any fun p => d.1.pixel p.1 p.2) := by
  induction ps generalizing d with
  | nil => simp [drawPoints]
  | cons p ps ih =>
    obtain ⟨hp, hps⟩ := List.pairwise_cons.mp hps
    have hrest : (ps.any fun q => (d.1.flip p.1 p.2).pixel q.1 q.2) = ps.any fun q => d.1.pixel q.1 q.2 :=
      by
      rw [Bool.eq_iff_iff, List.any_eq_true, List.any_eq_true]
      exact exists_congr fun q => and_congr_right fun hq => by rw [d.1.pixel_flip_of_ne (hp q hq)]
    rw [drawPoints_cons, ih hps, hrest, List.any_cons, Bool.or_assoc]

/-! ### The points of a sprite -/

/-- The points of one sprite row: the columns of its 1 bits (R240). -/
def rowPoints (x0 y : Nat) (b : Byte) : List (Nat × Nat) :=
  ((List.range 8).filter fun c => b.getLsbD (7 - c)).map fun c => (x0 + c, y)

/-- The points of a sprite's rows from display row `y` downwards (R240). -/
def spritePoints (x0 y : Nat) : List Byte → List (Nat × Nat)
  | [] => []
  | b :: bs => rowPoints x0 y b ++ spritePoints x0 (y + 1) bs

/-- A row is drawn by inverting the pixels of its points. -/
theorem drawRow_eq (x0 y : Nat) (b : Byte) (d : Drawing) : drawRow x0 y b d = drawPoints (rowPoints x0 y b) d := by
  rw [drawRow, drawPoints, rowPoints, List.foldl_map, List.foldl_filter]
  rfl

/-- A sprite is drawn by inverting the pixels of its points. -/
theorem drawRows_eq (x0 y : Nat) (bs : List Byte) (d : Drawing) :
    drawRows x0 y bs d = drawPoints (spritePoints x0 y bs) d := by
  induction bs generalizing y d with
  | nil => rfl
  | cons b bs ih => rw [drawRows, ih, drawRow_eq, spritePoints, drawPoints_append]

/-- The points of a row are its 1 bits. -/
theorem mem_rowPoints {x0 y : Nat} {b : Byte} {p : Nat × Nat} :
    p ∈ rowPoints x0 y b ↔ ∃ c < 8, b.getLsbD (7 - c) = true ∧ p = (x0 + c, y) := by
  simp only [rowPoints, List.mem_map, List.mem_filter, List.mem_range, and_assoc, eq_comm (b := p)]

/-- The points of a sprite are its 1 bits. -/
theorem mem_spritePoints {x0 y : Nat} {bs : List Byte} {p : Nat × Nat} :
    p ∈ spritePoints x0 y bs ↔
      ∃ k, ∃ h : k < bs.length, ∃ c < 8, bs[k].getLsbD (7 - c) = true ∧ p = (x0 + c, y + k) := by
  induction bs generalizing y with
  | nil => simp [spritePoints]
  | cons b bs ih =>
    rw [spritePoints, List.mem_append, mem_rowPoints, ih]
    constructor
    · rintro (⟨c, hc, hb, rfl⟩ | ⟨k, hk, c, hc, hb, rfl⟩)
      · exact ⟨0, Nat.succ_pos _, c, hc, hb, rfl⟩
      · exact ⟨k + 1, Nat.succ_lt_succ hk, c, hc, hb, by rw [Nat.add_right_comm, Nat.add_assoc]⟩
    · rintro ⟨_ | k, hk, c, hc, hb, rfl⟩
      · exact .inl ⟨c, hc, hb, rfl⟩
      · exact .inr ⟨k, Nat.lt_of_succ_lt_succ hk, c, hc, hb, by rw [Nat.add_right_comm, Nat.add_assoc]⟩

/-- No two points of a row are the same pixel: its eight columns are distinct modulo 64. -/
theorem rowPoints_pairwise (x0 y : Nat) (b : Byte) : (rowPoints x0 y b).Pairwise PixelNe := by
  refine List.pairwise_map.mpr ((List.pairwise_lt_range.filter _).imp_of_mem fun {c e} hc he hlt h => ?_)
  have hc8 := List.mem_range.mp (List.mem_filter.mp hc).1
  have he8 := List.mem_range.mp (List.mem_filter.mp he).1
  omega

/-- No two points of a sprite of at most 32 rows are the same pixel: its rows are distinct modulo 32. -/
theorem spritePoints_pairwise (x0 y : Nat) {bs : List Byte} (h : bs.length ≤ 32) :
    (spritePoints x0 y bs).Pairwise PixelNe := by
  induction bs generalizing y with
  | nil => exact .nil
  | cons b bs ih =>
    simp only [List.length_cons] at h
    refine List.pairwise_append.mpr ⟨rowPoints_pairwise x0 y b, ih (y + 1) (by omega), fun p hp q hq hpq => ?_⟩
    obtain ⟨c, -, -, rfl⟩ := mem_rowPoints.mp hp
    obtain ⟨k, hk, e, -, -, rfl⟩ := mem_spritePoints.mp hq
    omega

/-! ### The words of the statements -/

/-- `spriteHits` says which pixels the sprite's points cover. -/
theorem coversPixel_spritePoints (s : State) (x0 y0 n : Nat) {c r : Nat} (hc : c < 64) (hr : r < 32) :
    coversPixel (spritePoints x0 y0 (bytesFrom s (indexBase s) n)) c r = spriteHits s x0 y0 n c r := by
  rw [Bool.eq_iff_iff, coversPixel, List.any_eq_true, spriteHits, List.any_eq_true]
  simp only [mem_spritePoints]
  simp [bytesFrom, Nat.mod_eq_of_lt hc, Nat.mod_eq_of_lt hr, eq_comm (a := c), eq_comm (a := r), and_assoc]

/-- A pixel is named by its coordinates modulo the display's size (R48). -/
theorem Display.pixel_mod (d : Display) (x y : Nat) : d.pixel (x % 64) (y % 32) = d.pixel x y := by
  simp only [Display.pixel, Nat.mod_mod]

/-- Some point of a list is lit exactly when the list covers a lit pixel. -/
theorem any_pixel_iff (ps : List (Nat × Nat)) (d : Display) :
    (ps.any fun p => d.pixel p.1 p.2) = true ↔
      ∃ c < 64, ∃ r < 32, coversPixel ps c r = true ∧ d.pixel c r = true := by
  simp only [List.any_eq_true, coversPixel, Bool.and_eq_true, beq_iff_eq]
  constructor
  · rintro ⟨p, hp, hlit⟩
    exact ⟨_, Nat.mod_lt _ (by decide), _, Nat.mod_lt _ (by decide),
      ⟨p, hp, Nat.mod_mod _ _, Nat.mod_mod _ _⟩, (d.pixel_mod p.1 p.2).trans hlit⟩
  · rintro ⟨c, -, r, -, ⟨p, hp, hc, hr⟩, hlit⟩
    refine ⟨p, hp, ?_⟩
    rw [← d.pixel_mod, ← hc, ← hr, d.pixel_mod, hlit]

/-- `spriteCollides` says that the sprite hits a lit pixel. -/
theorem spriteCollides_iff (s : State) (x0 y0 n : Nat) :
    spriteCollides s x0 y0 n = true ↔
      ∃ c < 64, ∃ r < 32, spriteHits s x0 y0 n c r = true ∧ s.display.pixel c r = true := by
  simp only [spriteCollides, List.any_eq_true, List.mem_range, Bool.and_eq_true]
  exact ⟨fun ⟨r, hr, c, hc, h⟩ => ⟨c, hc, r, hr, h⟩, fun ⟨c, hc, r, hr, h⟩ => ⟨r, hr, c, hc, h⟩⟩

/-- The state that `Completes` gives for DXYN. -/
abbrev State.drawn (s : State) (x y : Reg) (n : Nibble) : State :=
  drawSprite (s.getV x) (s.getV y) (bytesFrom s (indexBase s) n.toNat) s

/-- The points a draw inverts are distinct pixels, since a sprite has at most 15 rows. -/
theorem spritePoints_bytesFrom_pairwise (s : State) (x0 y0 : Nat) (n : Nibble) :
    (spritePoints x0 y0 (bytesFrom s (indexBase s) n.toNat)).Pairwise PixelNe := by
  refine spritePoints_pairwise x0 y0 ?_
  have hn := n.isLt
  rw [bytesFrom_length]
  omega

/-- A draw inverts exactly the pixels the sprite hits. -/
theorem State.drawn_pixel (s : State) (x y : Reg) (n : Nibble) {c r : Nat} (hc : c < 64) (hr : r < 32) :
    (s.drawn x y n).display.pixel c r =
      (s.display.pixel c r ^^ spriteHits s (s.getV x).toNat (s.getV y).toNat n.toNat c r) := by
  rw [← coversPixel_spritePoints s _ _ _ hc hr,
    ← drawPoints_pixel (spritePoints_bytesFrom_pairwise s _ _ n) (s.display, false), ← drawRows_eq]
  rfl

/-- A draw leaves the collision flag in VF. -/
theorem State.drawn_vf (s : State) (x y : Reg) (n : Nibble) :
    (s.drawn x y n).getV Reg.vf =
      flagByte (spriteCollides s (s.getV x).toNat (s.getV y).toNat n.toNat) := by
  have hpairs := spritePoints_bytesFrom_pairwise s (s.getV x).toNat (s.getV y).toNat n
  have hflag : (drawRows (s.getV x).toNat (s.getV y).toNat (bytesFrom s (indexBase s) n.toNat)
      (s.display, false)).2 = spriteCollides s (s.getV x).toNat (s.getV y).toNat n.toNat := by
    rw [drawRows_eq, drawPoints_flag hpairs, Bool.false_or, Bool.eq_iff_iff, any_pixel_iff, spriteCollides_iff]
    refine exists_congr fun c => and_congr_right fun hc => exists_congr fun r => and_congr_right fun hr => ?_
    rw [coversPixel_spritePoints s _ _ _ hc hr]
  rw [State.drawn, drawSprite, State.getV_setV_self, hflag]

/-! ### The statements -/

/-- Settles O43: the pixels and the flag of the completed draw; nothing else but VF and the display is written. -/
theorem drawXorsTheSprite : Obligations.DrawXorsTheSprite := fun x y n s h =>
  ⟨_, exec_of_completes (.drw x y n h), fun _ hc _ hr => s.drawn_pixel x y n hc hr, s.drawn_vf x y n,
    s.onlyRegs_setV Reg.vf _⟩

/-- Settles O44: this is how DXYN raises. -/
theorem drawOutsideMemoryRaises : Obligations.DrawOutsideMemoryRaises := fun x y n _ h0 h =>
  exists_raised_of_raises (.drw x y n h0 h) rfl

/-- A display is its 2048 pixels. -/
theorem Display.ext_pixel {d e : Display} (h : ∀ c < 64, ∀ r < 32, d.pixel c r = e.pixel c r) : d = e := by
  ext r hr c hc
  simpa [Display.pixel, Nat.mod_eq_of_lt hr, Nat.mod_eq_of_lt hc, BitVec.getLsbD_eq_getElem hc] using h c hc r hr

/-- Which pixels a sprite hits depends on memory, the font and I alone. -/
theorem spriteHits_congr {s u : State} (hmem : u.mem = s.mem) (hparams : u.params = s.params) (hi : u.i = s.i) :
    spriteHits u = spriteHits s := by
  funext x0 y0 n x y
  simp only [spriteHits, indexBase, hi, State.byteAt_congr hmem hparams]

theorem flagByte_eq_one_iff {c : Bool} : flagByte c = 1 ↔ c = true := by cases c <;> decide

/-- A draw that raises nothing completes. -/
theorem eq_drawn_of_exec {s t : State} {x y : Reg} {n : Nibble} (h : exec (.drw x y n) s = .next t)
    (ht : t.halted = false) : (n.toNat = 0 ∨ indexBase s + n.toNat ≤ 0x1000) ∧ t = s.drawn x y n := by
  obtain hc | ⟨r, -, rfl⟩ := exec_cases h
  · cases hc with
    | drw x y n hfit => exact ⟨hfit, rfl⟩
  · cases ht

/-- Settles O45: both draws hit the same pixels, so that the second inverts back what the first inverted; it collides
where the sprite hits a pixel lit after the first draw, which is a pixel the first draw set. -/
theorem drawTwiceRestoresTheDisplay : Obligations.DrawTwiceRestoresTheDisplay := by
  intro x y x' y' n s t u w _ ht hrun hdisplay hmem hparams hi _ hx hy hw
  obtain ⟨hfit, rfl⟩ := eq_drawn_of_exec ht hrun
  have hbase : indexBase u = indexBase s := congrArg BitVec.toNat hi
  cases hw.symm.trans (exec_of_completes (.drw x' y' n (hbase ▸ hfit)))
  have hhits := spriteHits_congr hmem hparams hi
  refine ⟨Display.ext_pixel fun c hc r hr => ?_, ?_⟩
  · rw [u.drawn_pixel x' y' n hc hr, hdisplay, s.drawn_pixel x y n hc hr, hhits, hx, hy, Bool.xor_assoc,
      Bool.xor_self, Bool.xor_false]
  · rw [u.drawn_vf, flagByte_eq_one_iff, spriteCollides_iff, hhits, hx, hy, hdisplay]
    refine exists_congr fun c => and_congr_right fun hc => exists_congr fun r => and_congr_right fun hr => ?_
    rw [s.drawn_pixel x y n hc hr]
    cases s.display.pixel c r <;> simp

end Sys2Proof.Machine
end

section
/-! SUPPORT. Frames over all instructions: registers (10_state.md R31), memory (20_memory.md R85), the other state, the
kinds raised (60_exceptions.md R310) and the random input (R58). -/

namespace Sys2Proof.Machine

/-! ### Registers -/

/-- The shared write-back leaves every register but VX and VF. -/
theorem writeResultAndFlag_getV_of_ne {x q : Reg} (r : Byte) (f : Bool) (s : State) (hx : q ≠ x) (hvf : q ≠ Reg.vf) :
    (writeResultAndFlag x r f s).getV q = s.getV q := by
  simp [writeResultAndFlag_getV, hx, hvf]

/-- A key the scan finds is pressed. -/
theorem any_of_lowestPressed {ks : List Bool} {k : Nat} (h : lowestPressed ks = some k) :
    ks.any (fun b => b) = true :=
  List.any_eq_true.mpr ⟨true, List.mem_of_getElem? (lowestPressed_some.mp h).1, rfl⟩

/-- With nothing found by the scan no key is pressed. -/
theorem any_of_lowestPressed_none {ks : List Bool} (h : lowestPressed ks = none) : ks.any (fun b => b) = false :=
  List.any_eq_false.mpr fun b hb => by simp [lowestPressed_none.mp h b hb]

/-- A completed execute phase leaves every register that R31 does not list for it. -/
theorem Completes.getV_of_not_mayWrite {i : Instr} {s t : State} {r : Reg} (h : Completes s i t)
    (hr : mayWrite i s r = false) : t.getV r = s.getV r := by
  cases h with
  | ldImm x | addImm x | ldReg x | orReg x | andReg x | xorReg x | rnd x | ldVxDt x =>
    exact s.getV_setV_ne _ (Ne.symm (of_decide_eq_false hr))
  | ldVxK_pressed x h =>
    have hx : r ≠ x := by simpa [mayWrite, any_of_lowestPressed h] using hr
    exact s.getV_setV_ne _ (Ne.symm hx)
  | addReg x | subReg x | shr x | subnReg x =>
    obtain ⟨hx, hvf⟩ : r ≠ x ∧ r ≠ Reg.vf := by simpa [mayWrite] using hr
    exact writeResultAndFlag_getV_of_ne _ _ s hx hvf
  | drw => exact State.getV_setV_ne _ _ (Ne.symm (of_decide_eq_false hr))
  | loadRegs x => rw [loadRegsFrom_bytesFrom_getV, if_neg (of_decide_eq_false hr)]
  | _ => rfl

/-- Settles O22: a completed phase by the table; a fatal error leaves every register. -/
theorem onlyListedRegistersAreWritten : Obligations.OnlyListedRegistersAreWritten := by
  intro i s t r h hr
  obtain hc | ⟨e, -, rfl⟩ := exec_cases h
  · exact hc.getV_of_not_mayWrite hr
  · rfl

/-! ### Memory -/

/-- A completed execute phase writes memory only from FX33 and FX55. -/
theorem Completes.byteAt_of_not_storesTo {i : Instr} {s t : State} {a : Nat} (h : Completes s i t)
    (ha : storesTo i s a = false) : t.byteAt a = s.byteAt a := by
  cases h with
  | ldB x =>
    refine s.byteAt_putBytes_outside ?_
    simpa [storesTo] using ha
  | storeRegs x =>
    refine s.byteAt_putBytes_outside ?_
    simpa [storesTo, Nat.lt_succ_iff, ← Nat.add_assoc] using ha
  | addReg | subReg | shr | subnReg => rw [writeResultAndFlag_eq]; rfl
  | loadRegs => rw [loadRegsFrom_eq]; rfl
  | _ => rfl

/-- Settles O23: a completed phase by the table; a fatal error leaves memory. -/
theorem onlyStoredBytesChange : Obligations.OnlyStoredBytesChange := by
  intro i s t a h ha
  obtain hc | ⟨e, -, rfl⟩ := exec_cases h
  · exact hc.byteAt_of_not_storesTo ha
  · rfl

/-! ### The other state -/

/-- I is written only by ANNN, FX1E and FX29 (R40). -/
theorem Completes.i_eq {i : Instr} {s t : State} (h : Completes s i t) :
    t.i = s.i ∨ ∃ x nnn, i = .ldI nnn ∨ i = .addI x ∨ i = .ldF x := by
  cases h with
  | ldI nnn => exact .inr ⟨0, nnn, .inl rfl⟩
  | addI x => exact .inr ⟨x, 0, .inr (.inl rfl)⟩
  | ldF x => exact .inr ⟨x, 0, .inr (.inr rfl)⟩
  | addReg | subReg | shr | subnReg => rw [writeResultAndFlag_eq]; exact .inl rfl
  | loadRegs => rw [loadRegsFrom_eq]; exact .inl rfl
  | _ => exact .inl rfl

/-- sp and the stack are written only by 2NNN and 00EE (R42). -/
theorem Completes.stack_eq {i : Instr} {s t : State} (h : Completes s i t) :
    t.sp = s.sp ∧ t.stack = s.stack ∨ i = .ret ∨ ∃ nnn, i = .call nnn := by
  cases h with
  | ret => exact .inr (.inl rfl)
  | call nnn => exact .inr (.inr ⟨nnn, rfl⟩)
  | addReg | subReg | shr | subnReg => rw [writeResultAndFlag_eq]; exact .inl ⟨rfl, rfl⟩
  | loadRegs => rw [loadRegsFrom_eq]; exact .inl ⟨rfl, rfl⟩
  | _ => exact .inl ⟨rfl, rfl⟩

/-- The display is written only by 00E0 and DXYN (R48). -/
theorem Completes.display_eq {i : Instr} {s t : State} (h : Completes s i t) :
    t.display = s.display ∨ i = .cls ∨ ∃ x y n, i = .drw x y n := by
  cases h with
  | cls => exact .inr (.inl rfl)
  | drw x y n => exact .inr (.inr ⟨x, y, n, rfl⟩)
  | addReg | subReg | shr | subnReg => rw [writeResultAndFlag_eq]; exact .inl rfl
  | loadRegs => rw [loadRegsFrom_eq]; exact .inl rfl
  | _ => exact .inl rfl

/-- dt is written only by FX15 (R46). -/
theorem exec_dt_eq {i : Instr} {s t : State} (h : exec i s = .next t) : t.dt = s.dt ∨ ∃ x, i = .ldDtVx x := by
  by_cases hi : ∃ x, i = .ldDtVx x
  · exact .inr hi
  · exact .inl ((congrArg Prod.fst (exec_timers h)).trans (timersAfter_fst_of_ne s (not_exists.mp hi)))

/-- st is written only by FX18 (R47). -/
theorem exec_st_eq {i : Instr} {s t : State} (h : exec i s = .next t) : t.st = s.st ∨ ∃ x, i = .ldStVx x := by
  by_cases hi : ∃ x, i = .ldStVx x
  · exact .inr hi
  · exact .inl ((congrArg Prod.snd (exec_timers h)).trans (timersAfter_snd_of_ne s (not_exists.mp hi)))

/-- Settles O24: a completed phase field by field; a fatal error writes only halted, the record and sound_stop of it. -/
theorem otherStateIsWrittenOnlyByItsInstructions : Obligations.OtherStateIsWrittenOnlyByItsInstructions := by
  intro i s t h
  have hdt := exec_dt_eq h
  have hst := exec_st_eq h
  obtain hc | ⟨e, -, rfl⟩ := exec_cases h
  · exact ⟨hc.i_eq, hc.stack_eq, hdt, hst, hc.display_eq, (congrArg State.keys hc.rest :),
      (congrArg State.params hc.rest :), (congrArg State.loadError hc.rest :),
      .inl ⟨(congrArg State.halted hc.rest :), (congrArg State.err hc.rest :), (congrArg State.soundStop hc.rest :)⟩⟩
  · exact ⟨.inl rfl, .inl ⟨rfl, rfl⟩, hdt, hst, .inl rfl, rfl, rfl, rfl, .inr ⟨rfl, rfl, rfl⟩⟩

/-! ### The kinds raised -/

/-- Settles O25: a completed phase leaves halted as it was, and the ways to raise are those listed. -/
theorem kindsRaisedByEachInstruction : Obligations.KindsRaisedByEachInstruction := by
  intro i s t h hs ht
  obtain hc | ⟨e, hr, rfl⟩ := exec_cases h
  · have hkept : t.halted = s.halted := (congrArg State.halted hc.rest :)
    exact absurd (ht.symm.trans (hkept.trans hs)) Bool.noConfusion
  · cases hr with
    | call nnn => exact .inl ⟨rfl, nnn, rfl⟩
    | ret => exact .inr (.inl ⟨rfl, rfl⟩)
    | drw x y n => exact .inr (.inr (.inl ⟨rfl, x, y, n, .inl rfl⟩))
    | ldB_outside x => exact .inr (.inr (.inl ⟨rfl, x, 0, 0, .inr (.inl rfl)⟩))
    | storeRegs_outside x => exact .inr (.inr (.inl ⟨rfl, x, 0, 0, .inr (.inr (.inl rfl))⟩))
    | loadRegs x => exact .inr (.inr (.inl ⟨rfl, x, 0, 0, .inr (.inr (.inr rfl))⟩))
    | ldB_font x => exact .inr (.inr (.inr (.inl ⟨rfl, x, .inl rfl⟩)))
    | storeRegs_font x => exact .inr (.inr (.inr (.inl ⟨rfl, x, .inr rfl⟩)))
    | skp x => exact .inr (.inr (.inr (.inr ⟨rfl, x, .inl rfl⟩)))
    | sknp x => exact .inr (.inr (.inr (.inr ⟨rfl, x, .inr rfl⟩)))

/-! ### The random input -/

/-- The state with another index of the random input. -/
def State.withRnd (s : State) (k : Nat) : State := { s with rndIndex := k }

theorem writeResultAndFlag_withRnd (x : Reg) (r : Byte) (f : Bool) (s : State) (k : Nat) :
    writeResultAndFlag x r f (s.withRnd k) = (writeResultAndFlag x r f s).withRnd k := by
  unfold writeResultAndFlag
  cases hv : s.params.vfOrder <;> simp only [State.withRnd, hv] <;> rfl

theorem loadRegsFrom_withRnd (bs : List Byte) (s : State) (j k : Nat) :
    loadRegsFrom (s.withRnd k) j bs = (loadRegsFrom s j bs).withRnd k := by
  induction bs generalizing s j with
  | nil => rfl
  | cons b bs ih =>
    unfold loadRegsFrom
    split
    · next h => exact ih (s.setV ⟨j, h⟩ b) (j + 1)
    · rfl

/-- A completed execute phase but that of CXNN leaves the same with another index of the random input. -/
theorem Completes.withRnd {i : Instr} {s t : State} (h : Completes s i t) (hi : ∀ x nn, i ≠ .rnd x nn) (k : Nat) :
    Completes (s.withRnd k) i (t.withRnd k) := by
  cases h with
  | rnd x nn => exact absurd rfl (hi x nn)
  | addReg | subReg | shr | subnReg => rw [← writeResultAndFlag_withRnd]; constructor
  | loadRegs x h => rw [← loadRegsFrom_withRnd]; exact .loadRegs x h
  | _ => constructor <;> assumption

/-- What an execute phase raises does not depend on the random input. -/
theorem Raises.withRnd {i : Instr} {s : State} {r : Raise} (h : Raises s i r) (k : Nat) :
    Raises (s.withRnd k) i r := by
  cases h <;> constructor <;> assumption

/-- Settles O42: a completed phase and a raise both carry over to another index. -/
theorem onlyRandomUsesTheRandomInput : Obligations.OnlyRandomUsesTheRandomInput := by
  intro i s t k hi h
  obtain hc | ⟨r, hr, rfl⟩ := exec_cases h
  · exact exec_of_completes (hc.withRnd hi k)
  · exact exec_of_raises (hr.withRnd k)

end Sys2Proof.Machine
end

section
/-! SUPPORT. The load, a move at a step boundary (70_reset_and_hazards.md R352). -/

namespace Sys2Proof.Machine

/-- The state an accepted load leaves (R352). -/
def State.loaded (s : State) (rom : List Byte) : State :=
  { s.setMem (Memory.putBytes s.params.font progBase rom s.mem) with loadError := false, loadOpen := false }

/-- The state a refused load leaves (R352). -/
def State.loadRefused (s : State) : State := { s with loadError := true, loadOpen := false }

theorem loadRom_closed (rom : List Byte) {s : State} (h : s.loadOpen = false) :
    loadRom rom s = .refused .loadOutsideBoot := by
  simp [loadRom, h]

theorem loadRom_fits {rom : List Byte} {s : State} (ho : s.loadOpen = true) (h : rom.length ≤ 3584) :
    loadRom rom s = .next (s.loaded rom) := by
  have hwf : wellFormedRom rom = true := decide_eq_true h
  simp only [loadRom, ho, hwf]
  rfl

theorem loadRom_tooLong {rom : List Byte} {s : State} (ho : s.loadOpen = true) (h : 3584 < rom.length) :
    loadRom rom s = .next s.loadRefused := by
  have hwf : wellFormedRom rom = false := decide_eq_false (not_le.mpr h)
  simp only [loadRom, ho, hwf]
  rfl

/-- A load that has a move found its window open, and was accepted or refused by the length of the ROM. -/
theorem loadRom_cases {rom : List Byte} {s t : State} (h : loadRom rom s = .next t) :
    (rom.length ≤ 3584 ∧ t = s.loaded rom) ∨ t = s.loadRefused := by
  cases ho : s.loadOpen with
  | false => cases h.symm.trans (loadRom_closed rom ho)
  | true =>
    by_cases hl : rom.length ≤ 3584
    · exact .inl ⟨hl, Host.Outcome.next.inj (h.symm.trans (loadRom_fits ho hl))⟩
    · exact .inr (Host.Outcome.next.inj (h.symm.trans (loadRom_tooLong ho (not_le.mp hl))))

/-- Settles O58: by the window and the length of the ROM; the bytes by the law of a stored block. -/
theorem romLoad : Obligations.RomLoad := by
  refine fun rom s => ⟨loadRom_closed rom, fun ho h => ?fits, fun ho h => ?tooLong⟩
  case fits =>
    exact ⟨_, loadRom_fits ho h, fun k hk => s.byteAt_putBytes_add _ k rom hk,
      fun a ha => s.byteAt_putBytes_outside ha, rfl, rfl, rfl⟩
  case tooLong =>
    refine ⟨_, loadRom_tooLong ho h, rfl, rfl, rfl, fun hh => ?_⟩
    simp [step, State.loadRefused, hh]

end Sys2Proof.Machine
end

section
/-! SUPPORT. The step (30_encoding.md R111, R124, R140; 60_exceptions.md R320, R321, R333; 10_state.md R37). -/

namespace Sys2Proof.Machine

/-! ### What a step answers -/

/-- A halted block ignores the request (R321). -/
theorem step_of_halted {s : State} (h : s.halted = true) : step s = .next s := if_pos h

/-- A served step whose fetch leaves memory raises OutOfBounds. -/
theorem step_of_fetch_error {s : State} (hs : s.Ready) (h : 0xFFE < s.pc.toNat) :
    step s = .next (takeFatal s 0 (raiseOutOfBounds (max s.pc.toNat 0x1000))) := by
  simp only [step, hs.1, hs.2, fetch_error h]
  rfl

/-- A served step of an unmatched opcode. -/
theorem step_of_unmatched {s : State} {e : Reject} (hs : s.Ready) (hpc : s.pc.toNat ≤ 0xFFE)
    (h : decodeWord s.opcodeAt = .error e) : step s = .next (unmatchedOpcode s s.opcodeAt) := by
  have hf : fetch s = .ok s.opcodeAt := fetch_ok hpc
  simp only [step, hs.1, hs.2, hf, h]
  rfl

/-- A served step of an instruction. -/
theorem step_of_holds {s : State} {i : Instr} (hs : s.Ready) (h : s.Holds i) :
    step s = afterExecute s.st (exec i s.advance) := by
  obtain ⟨hpc, hd⟩ := h
  have hf : fetch s = .ok s.opcodeAt := fetch_ok hpc
  have hd : decodeWord s.opcodeAt = .ok i := hd
  simp only [step, hs.1, hs.2, hf, hd]
  rfl

/-- Settles O10: the state with pc advanced by 2 is the one the model executes on. -/
theorem stepRunsTheDecodedInstruction : Obligations.StepRunsTheDecodedInstruction := fun _ _ hs hi =>
  step_of_holds hs hi

/-- Settles O17: by how far the step comes, and since every execute phase answers. -/
theorem everyServedStepAnswers : Obligations.EveryServedStepAnswers := by
  intro s hl
  cases hh : s.halted with
  | true => exact ⟨s, step_of_halted hh⟩
  | false =>
    by_cases hpc : s.pc.toNat ≤ 0xFFE
    · cases hd : decodeWord s.opcodeAt with
      | error e => exact ⟨_, step_of_unmatched ⟨hh, hl⟩ hpc hd⟩
      | ok i =>
        obtain ⟨u, hu⟩ := exists_exec_next i s.advance
        exact ⟨endStep s.st u, by rw [step_of_holds ⟨hh, hl⟩ ⟨hpc, hd⟩, hu]; rfl⟩
    · exact ⟨_, step_of_fetch_error ⟨hh, hl⟩ (not_le.mp hpc)⟩

/-- pc after a fetch inside memory does not wrap (R39). -/
theorem State.advance_pc_toNat {s : State} (h : s.pc.toNat ≤ 0xFFE) : s.advance.pc.toNat = s.pc.toNat + 2 := by
  rw [State.advance_pc, BitVec.toNat_add]
  exact Nat.mod_eq_of_lt (by simp; omega)

/-- Settles O11: the two bytes by the law of the fetch, the raise by the step's. -/
theorem fetchIsBigEndianAndBounded : Obligations.FetchIsBigEndianAndBounded := by
  refine fun s => ⟨fun h => ⟨_, fetch_ok h, joinBytes_toNat _ _, State.advance_pc_toNat h⟩, fun h hs => ?outside⟩
  case outside =>
    have hinfo : max s.pc.toNat 0x1000 = if 0xFFF < s.pc.toNat then s.pc.toNat else 0x1000 := by
      split <;> omega
    rw [← hinfo]
    exact ⟨_, step_of_fetch_error hs h, rfl, rfl, rfl, rfl, rfl⟩

/-- Settles O12: under Fatal the fatal-error entry, under Nop the end of the step on the fetched state. -/
theorem unmatchedOpcodeFollowsParameter : Obligations.UnmatchedOpcodeFollowsParameter := by
  intro s e hs hpc hd
  refine ⟨_, step_of_unmatched hs hpc hd, fun hp => ?fatal, fun hp => ?nop⟩
  case fatal =>
    simp only [unmatchedOpcode, hp]
    exact ⟨rfl, rfl, rfl, rfl, rfl⟩
  case nop =>
    have hrun : s.advance.halted = false := hs.1
    simp only [unmatchedOpcode, hp]
    refine ⟨?_, endStep_dt_toNat s.st hrun, endStep_st_toNat s.st hrun, ?_⟩ <;> rw [endStep_of_running hrun] <;> rfl

/-- Settles O13: of the moves only reset touches halted or the record, and a step request has no effect. -/
theorem haltedBlockWaitsForReset : Obligations.HaltedBlockWaitsForReset := by
  refine fun s h => ⟨step_of_halted h, fun e t ht he => ?_, ⟨_, rfl, rfl, rfl⟩⟩
  cases e with
  | reset => exact absurd rfl he
  | load rom => obtain ⟨-, rfl⟩ | rfl := loadRom_cases ht <;> exact ⟨h, rfl⟩
  | setKeys k => cases ht; exact ⟨h, rfl⟩
  | step => cases ht.symm.trans (step_of_halted h); exact ⟨h, rfl⟩

/-- Settles O57: the stall takes the fetch back, so that the step ends on the state at its start. -/
theorem stalledStepTicks : Obligations.StalledStepTicks := by
  intro x s hs hi hkeys
  have hnone : lowestPressed s.advance.keys.toList = none := lowestPressed_keys_eq_none hkeys
  have hstall : exec (.ldVxK x) s.advance = .next s := by
    rw [exec_ldVxK_of_no_key x hnone, State.rewind_advance]
  refine ⟨endStep s.st s, by rw [step_of_holds hs hi, hstall]; rfl, endStep_dt_toNat s.st hs.1,
    endStep_st_toNat s.st hs.1, ?_⟩
  rw [endStep_of_running hs.1]
  rfl

/-! ### Steps that raise and steps that complete -/

/-- What a fatal error may record (R62, R310): a kind, and an info of at most 0x1000E. -/
abbrev Raise.Legal (r : Raise) : Prop := r.kind ≠ .none ∧ r.info.toNat ≤ 0x1000E

theorem legal_raiseOutOfBounds {a : Nat} (h : a ≤ 0xFFFF) : (raiseOutOfBounds (max a 0x1000)).Legal := by
  refine ⟨ErrKind.noConfusion, ?_⟩
  rw [raiseOutOfBounds, BitVec.toNat_ofNat]
  omega

theorem legal_raiseFontWrite {a : Nat} (h : a ≤ 0xFFFF) : (raiseFontWrite a).Legal := by
  refine ⟨ErrKind.noConfusion, ?_⟩
  rw [raiseFontWrite, BitVec.toNat_ofNat]
  omega

theorem indexBase_le (s : State) : indexBase s ≤ 0xFFFF := Nat.le_of_lt_succ s.i.isLt

/-- Every raise of an execute phase is one that the record may hold. -/
theorem Raises.legal {i : Instr} {s : State} {r : Raise} (h : Raises s i r) : r.Legal := by
  have hpc := s.pc.isLt
  cases h with
  | call | ret =>
    refine ⟨ErrKind.noConfusion, ?_⟩
    rw [pcInfo, BitVec.toNat_setWidth]
    omega
  | skp x | sknp x =>
    have hx := (s.getV x).isLt
    refine ⟨ErrKind.noConfusion, ?_⟩
    rw [BitVec.toNat_setWidth]
    omega
  | drw | ldB_outside | storeRegs_outside | loadRegs => exact legal_raiseOutOfBounds (indexBase_le s)
  | ldB_font | storeRegs_font => exact legal_raiseFontWrite (indexBase_le s)

/-- A completed execute phase raises nothing. -/
theorem Completes.halted_eq {i : Instr} {s t : State} (h : Completes s i t) : t.halted = s.halted :=
  (congrArg State.halted h.rest :)

/-- The opcode a fatal error of a step records: the two bytes at pc, or 0 where they are not both in memory (R311). -/
def State.fetchedOpcode (s : State) : Word := if s.pc.toNat ≤ 0xFFE then s.opcodeAt else 0

/-- The step of a block that is not halted takes a fatal error on its start, with the fetched opcode, or ends on what the
execute phase of the instruction at pc completed with, or, where none stands there, on the fetched state. -/
theorem runningStep_cases {s t : State} (hs : s.halted = false) (h : step s = .next t) :
    (∃ r : Raise, r.Legal ∧ t = takeFatal s s.fetchedOpcode r) ∨
    (s.pc.toNat ≤ 0xFFE ∧ ∃ u, u.halted = false ∧ t = endStep s.st u ∧
      ((∃ i, s.Holds i ∧ Completes s.advance i u) ∨ (∀ i, ¬ s.Holds i) ∧ u = s.advance)) := by
  obtain ⟨hh, -⟩ | ⟨-, -, ⟨hpc, rfl⟩ | ⟨hpc, ⟨e, hd, rfl⟩ | ⟨i, u, hd, he, rfl⟩⟩⟩ := step_cases h
  · exact absurd (hh.symm.trans hs) Bool.noConfusion
  · refine .inl ⟨_, legal_raiseOutOfBounds (Nat.le_of_lt_succ s.pc.isLt), ?_⟩
    rw [State.fetchedOpcode, if_neg (not_le.mpr hpc)]
  · cases hp : s.params.decodeUnmatched with
    | fatal =>
      refine .inl ⟨{ kind := .decodeError, info := 0 }, by decide, ?_⟩
      simp only [unmatchedOpcode, hp, State.fetchedOpcode, if_pos hpc]
    | nop =>
      refine .inr ⟨hpc, s.advance, hs, by simp only [unmatchedOpcode, hp], .inr ⟨fun i hi => ?_, rfl⟩⟩
      cases hd.symm.trans hi.2
  · obtain hc | ⟨r, hr, rfl⟩ := exec_cases he
    · exact .inr ⟨hpc, u, hc.halted_eq.trans hs, rfl, .inl ⟨i, ⟨hpc, hd⟩, hc⟩⟩
    · refine .inl ⟨r, hr.legal, ?_⟩
      rw [endStep_of_halted (takeFatal_halted _ _ _), State.rewind_advance, encode_of_decodeWord hd,
        State.fetchedOpcode, if_pos hpc]

/-- Settles O14: a step that ends halted took a fatal error, which commits nothing but the record. -/
theorem fatalErrorCommitsNothing : Obligations.FatalErrorCommitsNothing := by
  intro s t hs h ht
  obtain ⟨r, ⟨hkind, -⟩, rfl⟩ | ⟨-, u, hu, rfl, -⟩ := runningStep_cases hs h
  · refine ⟨⟨rfl, rfl, rfl, rfl, ?_⟩, hkind⟩
    rw [BitVec.ofNat_toNat, BitVec.setWidth_eq]
    rfl
  · exact absurd (ht.symm.trans ((endStep_halted s.st u).trans hu)) Bool.noConfusion

/-- sound_stop at the end of a completed step (R333). -/
theorem endStep_soundStop_iff {u : State} (st0 : Byte) (h : u.halted = false) :
    (endStep st0 u).soundStop = true ↔ st0 ≠ 0 ∧ (endStep st0 u).st = 0 := by
  rw [endStep_of_running h]
  simp only [Bool.and_eq_true, decide_eq_true_eq]

/-- Settles O16: a fatal error clears sound_stop; the end of a completed step sets it by its own rule. -/
theorem soundStopMarksTheStepThatReachedZero : Obligations.SoundStopMarksTheStepThatReachedZero := by
  intro s t hs h
  obtain ⟨r, -, rfl⟩ | ⟨-, u, hu, rfl, -⟩ := runningStep_cases hs.1 h
  · simp
  · simp only [endStep_soundStop_iff s.st hu, endStep_halted, hu, true_and]

/-- Where a completed execute phase leaves pc, from the state at the start of the step (R37). -/
theorem Completes.pc_eq_muxPc {i : Instr} {s u : State} (h : Completes s.advance i u) : u.pc = muxPc i s := by
  have hfour : s.pc + 2 + 2 = s.pc + 4 := BitVec.add_assoc s.pc 2 2
  cases h with
  | ret h =>
    have hsp : 0 < s.sp.val := h
    simp [muxPc, hsp]
  | seImm | sneImm | seReg | sneReg =>
    simp only [State.setPc_pc, State.advance_pc, State.getV_advance, hfour, muxPc]
  | skp x h | sknp x h =>
    have hx : (s.getV x).toNat < 16 := h
    have hkey : s.keys.toList.getD (s.getV x).toNat false = s.keys[(s.getV x).toNat] := by simp [hx]
    simp only [State.setPc_pc, State.advance_pc, hfour, muxPc, hkey]
    rfl
  | addReg | subReg | shr | subnReg => rw [writeResultAndFlag_eq]; rfl
  | loadRegs => rw [loadRegsFrom_eq]; rfl
  | ldVxK_pressed x h => exact (if_pos (any_of_lowestPressed h)).symm
  | ldVxK_stalled x h =>
    rw [State.rewind_advance]
    exact (if_neg (Bool.not_eq_true _ ▸ any_of_lowestPressed_none h)).symm
  | _ => rfl

/-- Settles O18: the end of the step leaves pc where the execute phase of the instruction at pc left it. -/
theorem programCounterMux : Obligations.ProgramCounterMux := by
  intro s t i hs hi h ht
  obtain ⟨r, -, rfl⟩ | ⟨-, u, hu, rfl, ⟨j, hj, hc⟩ | ⟨hnone, -⟩⟩ := runningStep_cases hs.1 h
  · cases ht
  · rw [endStep_of_running hu, hi.unique hj]
    exact hc.pc_eq_muxPc
  · exact absurd hi (hnone i)

end Sys2Proof.Machine
end

section
/-! SUPPORT. Reset, and the invariant of the block along every move (10_state.md R39, R52, R57, R62; 20_memory.md R88;
60_exceptions.md R333; 70_reset_and_hazards.md R351, R352). -/

namespace Sys2Proof.Machine

/-! ### Reset -/

/-- Memory after reset reads its reset contents (R57). -/
theorem resetWith_byteAt (p : Params) (a : Nat) : (State.resetWith p).byteAt a = initialByte p.font a := rfl

/-- Settles O1: field by field, the display by the law of the cleared one. -/
theorem resetLeavesTheStatedValues : Obligations.ResetLeavesTheStatedValues := by
  refine fun p => ⟨fun r => ?_, rfl, rfl, rfl, fun j => ?_, rfl, rfl, fun q _ => Display.pixel_clear _ _,
    fun k => ?_, fun a => ?_, fun a h _ => ?_, rfl, rfl⟩
  · exact Vector.getElem_replicate r.isLt
  · exact Vector.getElem_replicate j.isLt
  · exact Vector.getElem_replicate k.isLt
  · rw [resetWith_byteAt, initialByte, dif_pos a.isLt]
  · rw [resetWith_byteAt, initialByte, dif_neg (not_lt.mpr h)]

/-- Settles O2: memory lists nothing, pc is 0x200, the stack slots are 0, no error is recorded and the outputs are 0. -/
theorem resetMeetsTheInvariant : Obligations.ResetMeetsTheInvariant := by
  refine fun p => ⟨⟨Memory.wf_nil, nofun⟩, ⟨?pc, fun j => ?stack⟩,
    ⟨⟨nofun, fun h => absurd rfl h⟩, fun _ => rfl, ?info⟩, ⟨nofun, nofun⟩⟩
  case pc => rw [resetWith_pc]; decide
  case stack =>
    have hj : (State.resetWith p).stack[j.val] = 0 := Vector.getElem_replicate j.isLt
    rw [hj]
    decide
  case info => rw [resetWith_err]; decide

/-- The reset move leaves a state that meets the invariant, which does not look at rndIndex. -/
theorem applyReset_inv (s : State) : (applyReset s).Inv := resetMeetsTheInvariant s.params

/-- Settles O3: the reset move is the reset state of the state's parameters, but for rndIndex. -/
theorem resetLeavesEveryState : Obligations.ResetLeavesEveryState := fun s =>
  ⟨_, rfl, applyReset_inv s, ⟨rfl, rfl⟩, rfl⟩

/-! ### Memory and the font -/

/-- A block stored above the font and inside memory keeps the memory's part of the invariant. -/
theorem State.MemOk.putBytes {s : State} (h : s.MemOk) {a : Nat} {bs : List Byte} (h0 : 0x50 ≤ a)
    (hfit : a + bs.length ≤ 0x1000) : (s.setMem (Memory.putBytes s.params.font a bs s.mem)).MemOk := by
  obtain ⟨hwf, hfont⟩ := h
  refine ⟨Memory.wf_putBytes hwf hfit, fun c hc => ?_⟩
  obtain ⟨hac, -⟩ | hc := Memory.addr_of_mem_putBytes hc
  · exact h0.trans hac
  · exact hfont c hc

/-- A completed execute phase keeps the memory's part of the invariant. -/
theorem Completes.memOk {i : Instr} {s t : State} (h : Completes s i t) (hs : s.MemOk) : t.MemOk := by
  cases h with
  | ldB x h0 h => exact hs.putBytes h0 (by simp; omega)
  | storeRegs x h0 h => exact hs.putBytes h0 (by simp; omega)
  | addReg | subReg | shr | subnReg => rw [writeResultAndFlag_eq]; exact hs
  | loadRegs => rw [loadRegsFrom_eq]; exact hs
  | _ => exact hs

/-- No completed execute phase stores into the font (R52). -/
theorem Completes.storesTo_font {i : Instr} {s t : State} {a : Nat} (h : Completes s i t) (ha : a ≤ 0x4F) :
    storesTo i s a = false := by
  cases h with
  | ldB x h0 h | storeRegs x h0 h =>
    have hlt : ¬ indexBase s ≤ a := by omega
    simp [storesTo, hlt]
  | _ => rfl

/-- The end of a step leaves memory. -/
theorem byteAt_endStep (st0 : Byte) (s : State) (a : Nat) : (endStep st0 s).byteAt a = s.byteAt a := by
  cases hs : s.halted with
  | true => rw [endStep_of_halted hs]
  | false => rw [endStep_of_running hs]; rfl

/-- Settles O21: a step that raises stores nothing and a completed one nothing in the font; and an address that memory
does not list reads as after reset. -/
theorem fontIsImmutable : Obligations.FontIsImmutable := by
  refine ⟨fun s t h a ha => ?_, fun s hs a => ?_⟩
  · cases hh : s.halted with
    | true => cases h.symm.trans (step_of_halted hh); rfl
    | false =>
      obtain ⟨r, -, rfl⟩ | ⟨-, u, -, rfl, ⟨i, -, hc⟩ | ⟨-, rfl⟩⟩ := runningStep_cases hh h
      · rfl
      · rw [byteAt_endStep, hc.byteAt_of_not_storesTo (hc.storesTo_font ha), State.byteAt_advance]
      · rw [byteAt_endStep, State.byteAt_advance]
  · obtain ⟨⟨-, hfont⟩, -⟩ := hs
    have hunlisted : ∀ c ∈ s.mem, c.1 ≠ a.val := fun c hc => by have := hfont c hc; omega
    rw [State.byteAt, Memory.get_unlisted hunlisted, initialByte, dif_pos a.isLt]

/-! ### pc and the stack -/

/-- The control-flow table keeps pc within R39. -/
theorem muxPc_le {s : State} (i : Instr) (hpc : s.pc.toNat ≤ 0xFFE)
    (hstack : ∀ j : Fin 16, s.stack[j.val].toNat ≤ 0x1000) : (muxPc i s).toNat ≤ 0x10FE := by
  have htwo : (s.pc + 2).toNat = s.pc.toNat + 2 := State.advance_pc_toNat hpc
  have hfour : (s.pc + 4).toNat = s.pc.toNat + 4 := by
    rw [BitVec.toNat_add]
    exact Nat.mod_eq_of_lt (by simp; omega)
  cases i with
  | jp nnn | call nnn =>
    have hn := nnn.isLt
    exact (addrOperand_toNat nnn).trans_le (by omega)
  | jpV0 nnn =>
    have hn := nnn.isLt
    have hv := (s.getV 0).isLt
    exact (addrOperand_add_regWide_toNat nnn s 0).trans_le (by omega)
  | ret =>
    simp only [muxPc]
    split
    · exact (hstack ⟨s.sp.val - 1, by omega⟩).trans (by decide)
    · omega
  | seImm | sneImm | seReg | sneReg | skp | sknp | ldVxK => simp only [muxPc]; split <;> omega
  | _ => exact htwo.trans_le (by omega)

/-- A completed execute phase pushes at most the pc it found. -/
theorem Completes.stack_le {i : Instr} {s t : State} (h : Completes s i t) (hpc : s.pc.toNat ≤ 0x1000)
    (hs : ∀ j : Fin 16, s.stack[j.val].toNat ≤ 0x1000) (j : Fin 16) : t.stack[j.val].toNat ≤ 0x1000 := by
  cases h with
  | call nnn h =>
    simp only [State.setPc_stack, State.setStack_stack, Vector.getElem_set]
    split
    · exact hpc
    · exact hs j
  | addReg | subReg | shr | subnReg => rw [writeResultAndFlag_eq]; exact hs j
  | loadRegs => rw [loadRegsFrom_eq]; exact hs j
  | _ => exact hs j

/-! ### The invariant -/

/-- A completed execute phase leaves the error record legal. -/
theorem Completes.errOk {i : Instr} {s t : State} (h : Completes s i t) (hs : s.ErrOk) : t.ErrOk := by
  have herr : t.err = s.err := (congrArg State.err h.rest :)
  rwa [State.ErrOk, h.halted_eq, herr]

/-- The fatal-error entry keeps the invariant, for every legal raise. -/
theorem inv_takeFatal {s : State} (op : Word) {r : Raise} (hs : s.Inv) (hr : r.Legal) : (takeFatal s op r).Inv := by
  obtain ⟨hmem, hflow, -, -⟩ := hs
  exact ⟨hmem, hflow, ⟨⟨fun _ => hr.1, fun _ => rfl⟩, nofun, hr.2⟩, ⟨nofun, fun _ => rfl⟩⟩

/-- The end of a completed step makes the outputs consistent and keeps the rest of the invariant. -/
theorem inv_endStep {u : State} (st0 : Byte) (hu : u.halted = false) (hmem : u.MemOk) (hflow : u.FlowOk)
    (herr : u.ErrOk) : (endStep st0 u).Inv := by
  have hsound : (endStep st0 u).soundStop = true → (endStep st0 u).st = 0 ∧ (endStep st0 u).halted = false :=
    fun h => ⟨((endStep_soundStop_iff st0 hu).mp h).2, (endStep_halted st0 u).trans hu⟩
  rw [endStep_of_running hu] at hsound ⊢
  exact ⟨hmem, hflow, herr, hsound, fun _ => rfl⟩

/-- Every step keeps the invariant: a fatal error does, and a completed step ends on a state whose memory, pc, stack and
error record are as they must be. -/
theorem inv_step {s t : State} (hs : s.Inv) (h : step s = .next t) : t.Inv := by
  cases hh : s.halted with
  | true => cases h.symm.trans (step_of_halted hh); exact hs
  | false =>
    obtain ⟨r, hr, rfl⟩ | ⟨hpc, u, hu, rfl, hcomp⟩ := runningStep_cases hh h
    · exact inv_takeFatal _ hs hr
    · obtain ⟨hmem, ⟨-, hstack⟩, herr, -⟩ := hs
      have hadv := State.advance_pc_toNat hpc
      obtain ⟨i, -, hc⟩ | ⟨-, rfl⟩ := hcomp
      · have hupc : u.pc.toNat ≤ 0x10FE := hc.pc_eq_muxPc ▸ muxPc_le i hpc hstack
        exact inv_endStep s.st hu (hc.memOk hmem) ⟨hupc, hc.stack_le (by omega) hstack⟩ (hc.errOk herr)
      · exact inv_endStep s.st hu hmem ⟨by omega, hstack⟩ herr

/-- Settles O19: the step's share of the invariant, `inv_step`. -/
theorem invariantKeptByStep : Obligations.InvariantKeptByStep := fun _ _ hs h => inv_step hs h

/-- An accepted load keeps the invariant: the ROM lies above the font and inside memory. -/
theorem inv_loaded {s : State} {rom : List Byte} (hs : s.Inv) (h : rom.length ≤ 3584) : (s.loaded rom).Inv := by
  obtain ⟨hmem, hflow, herr, hsound, -⟩ := hs
  exact ⟨hmem.putBytes (by decide) (Nat.add_le_add_left h progBase), hflow, herr, hsound, nofun⟩

/-- A refused load keeps the invariant: it closes the loader's window. -/
theorem inv_loadRefused {s : State} (hs : s.Inv) : s.loadRefused.Inv := by
  obtain ⟨hmem, hflow, herr, hsound, -⟩ := hs
  exact ⟨hmem, hflow, herr, hsound, fun _ => rfl⟩

/-- Every move at a step boundary keeps the invariant. -/
theorem inv_hostStep {s t : State} (e : HostEvent) (hs : s.Inv) (h : hostStep e s = .next t) : t.Inv := by
  cases e with
  | reset => cases h; exact applyReset_inv s
  | load rom =>
    obtain ⟨hl, rfl⟩ | rfl := loadRom_cases h
    · exact inv_loaded hs hl
    · exact inv_loadRefused hs
  | setKeys k => cases h; exact hs
  | step => exact inv_step hs h

/-- Every reachable state meets the invariant. -/
theorem inv_of_reachable {s : State} (h : Reachable s) : s.Inv := by
  induction h with
  | reset p => exact resetMeetsTheInvariant p
  | move e _ hstep ih => exact inv_hostStep e ih hstep

/-- Settles O20: move by move, and by induction on the run. -/
theorem reachableStatesMeetTheInvariant : Obligations.ReachableStatesMeetTheInvariant :=
  ⟨fun _ _ e hs h => inv_hostStep e hs h, fun _ h => inv_of_reachable h⟩

end Sys2Proof.Machine
end
